-- ==== Sys2Proof/Word.lean ====
section
/-! DEFINITION. The word types of the tap-tempo LFO DDS core (spec/00_scope.md R9, R10; bit 0 is the least
significant bit everywhere). -/

namespace Sys2Proof

/-- An 8-bit quantity: a table entry, a table index, a PWM sample (R9). -/
abbrev Byte := BitVec 8

/-- A 16-bit quantity: a tempo in milliseconds, a millisecond counter, an `IMM16` field (R9, R80). -/
abbrev Half := BitVec 16

/-- A 32-bit quantity: a phase, a phase increment, an event word, a readback word (R9, R62, R80). -/
abbrev Word := BitVec 32

end Sys2Proof
end

