-- ==== Sys2Proof/Syntax.lean ====
section
/-! DEFINITION. The events of the core, one constructor per row of spec/opcode_table.json (spec/30_encoding.md R84).
The core has no instruction set (R3): its "instructions" are these events. -/

namespace Sys2Proof

/-- The operand of format `D` (R83): one step up or one step down, the source's "(±1)". -/
inductive Dir where
  | plus   -- `IMM16 = 0x0001`, `DIR = +1`
  | minus  -- `IMM16 = 0xFFFF`, `DIR = -1`
  deriving DecidableEq, Repr

/-- Where an event word comes from (R81). -/
inductive Source where
  | ext  -- the command port
  | int  -- the timing layer inside the block
  deriving DecidableEq, Repr

/-- The eighteen events of R84, in the table's order. -/
inductive Instr where
  | nop
  | setWaveform (dir : Dir)
  | resetWaveform
  | setMultiplier (dir : Dir)
  | resetMultiplier
  | setDepth (dir : Dir)
  | resetDepth
  | adjustSpeed (delta : Int)
  | resetSpeedAdjust
  | setBaseTempo (ms : Nat)
  | tap
  | modeHoldStart
  | modeHoldEnd
  | clearStatus
  | sampleTick
  | msTick
  | syncRise
  | syncFall
  deriving DecidableEq, Repr

/-- The source of each event: the last column but two of the opcode map (R81, R84). -/
def Instr.source : Instr → Source
  | .nop => .ext
  | .setWaveform _ => .ext
  | .resetWaveform => .ext
  | .setMultiplier _ => .ext
  | .resetMultiplier => .ext
  | .setDepth _ => .ext
  | .resetDepth => .ext
  | .adjustSpeed _ => .ext
  | .resetSpeedAdjust => .ext
  | .setBaseTempo _ => .ext
  | .tap => .ext
  | .modeHoldStart => .ext
  | .modeHoldEnd => .ext
  | .clearStatus => .ext
  | .sampleTick => .int
  | .msTick => .int
  | .syncRise => .int
  | .syncFall => .int

end Sys2Proof
end

