-- ==== Sys2Proof/WellFormed.lean ====
section
/-! DEFINITION. Which events are well formed: the operand ranges of spec/30_encoding.md R83. -/

namespace Sys2Proof

/-- Format `S` (R83): any 16-bit two's-complement value. -/
abbrev DeltaInRange (delta : Int) : Prop := -32768 ≤ delta ∧ delta ≤ 32767

/-- Format `U` (R83): any 16-bit unsigned value. -/
abbrev MsInRange (ms : Nat) : Prop := ms ≤ 65535

/-- An event is well formed when its operand is one its format can carry (R83). Formats `Z` and `I` carry none,
and both values of a `Dir` are legal. -/
def Instr.wellFormed : Instr → Bool
  | .nop => true
  | .setWaveform _ => true
  | .resetWaveform => true
  | .setMultiplier _ => true
  | .resetMultiplier => true
  | .setDepth _ => true
  | .resetDepth => true
  | .adjustSpeed delta => decide (DeltaInRange delta)
  | .resetSpeedAdjust => true
  | .setBaseTempo ms => decide (MsInRange ms)
  | .tap => true
  | .modeHoldStart => true
  | .modeHoldEnd => true
  | .clearStatus => true
  | .sampleTick => true
  | .msTick => true
  | .syncRise => true
  | .syncFall => true

end Sys2Proof
end

