-- ==== Sys2Proof/Decode.lean ====
section
/-! DEFINITION. The decoder and the encoder of event words (spec/30_encoding.md R80 to R87). Decoding is total on
every 32-bit word and rejects by name; the encoder is written from the same table. -/

namespace Sys2Proof

/-- Why a word is illegal. The spec has one answer, *illegal* (R85); the names say at which of its tests a word fell
(R86). None is stored by the block (R252). -/
inductive Illegal where
  | reservedField   -- `RSV ≠ 0`
  | unknownOpcode   -- `OPC` in 0x0E..0x7F or 0x84..0xFF
  | internalOpcode  -- an `INT` code on the command port
  | operand         -- `IMM16` is not legal for the format
  deriving DecidableEq, Repr

/-- The three fields of an event word (R80). -/
def opcField (w : Word) : Byte := w.extractLsb' 24 8

@[inherit_doc opcField]
def rsvField (w : Word) : Byte := w.extractLsb' 16 8

@[inherit_doc opcField]
def immField (w : Word) : Half := w.extractLsb' 0 16

/-- Formats `Z` and `I`: `IMM16` must be 0x0000 (R83). -/
def readNone (imm : Half) (i : Instr) : Except Illegal Instr :=
  if imm = 0x0000#16 then .ok i else .error .operand

/-- Format `D`: `IMM16` must be 0x0001 or 0xFFFF (R83). -/
def readDir (imm : Half) (f : Dir → Instr) : Except Illegal Instr :=
  if imm = 0x0001#16 then .ok (f .plus)
  else if imm = 0xFFFF#16 then .ok (f .minus)
  else .error .operand

/-- Format `S`: `DELTA = sext_32(IMM16)` (R83). -/
def readDelta (imm : Half) (f : Int → Instr) : Except Illegal Instr := .ok (f imm.toInt)

/-- Format `U`: `MS = zext_32(IMM16)` (R83). -/
def readMs (imm : Half) (f : Nat → Instr) : Except Illegal Instr := .ok (f imm.toNat)

/-- The opcode map (R84): the event of an `OPC`, with its operand read as its format says. -/
def decodeOpcode (opc : Nat) (imm : Half) : Except Illegal Instr :=
  match opc with
  | 0x00 => readNone imm .nop
  | 0x01 => readDir imm .setWaveform
  | 0x02 => readNone imm .resetWaveform
  | 0x03 => readDir imm .setMultiplier
  | 0x04 => readNone imm .resetMultiplier
  | 0x05 => readDir imm .setDepth
  | 0x06 => readNone imm .resetDepth
  | 0x07 => readDelta imm .adjustSpeed
  | 0x08 => readNone imm .resetSpeedAdjust
  | 0x09 => readMs imm .setBaseTempo
  | 0x0A => readNone imm .tap
  | 0x0B => readNone imm .modeHoldStart
  | 0x0C => readNone imm .modeHoldEnd
  | 0x0D => readNone imm .clearStatus
  | 0x80 => readNone imm .sampleTick
  | 0x81 => readNone imm .msTick
  | 0x82 => readNone imm .syncRise
  | 0x83 => readNone imm .syncFall
  | _ => .error .unknownOpcode

/-- Whether an `OPC` is in the table of R84. -/
def opcodeKnown (opc : Nat) : Bool := opc ≤ 0x0D || (0x80 ≤ opc && opc ≤ 0x83)

/-- `Decode(word, src)` (R85): the four tests in the spec's order, then the event. -/
def decode (src : Source) (w : Word) : Except Illegal Instr :=
  if rsvField w ≠ 0 then .error .reservedField
  else if opcodeKnown (opcField w).toNat = false then .error .unknownOpcode
  else if src = .ext ∧ 0x80 ≤ (opcField w).toNat then .error .internalOpcode
  else decodeOpcode (opcField w).toNat (immField w)

/-- An event word from its fields, `RSV` being 0 (R80, R88). -/
def eventWord (opc : Byte) (imm : Half) : Word := BitVec.ofNat 32 (opc.toNat * 2 ^ 24 + imm.toNat)

/-- `IMM16` of a `Dir` (R83). -/
def dirImm : Dir → Half
  | .plus => 0x0001#16
  | .minus => 0xFFFF#16

/-- The word of an event (R84, R88). The operand of an ill-formed event is cut to 16 bits. -/
def encode : Instr → Word
  | .nop => eventWord 0x00#8 0#16
  | .setWaveform d => eventWord 0x01#8 (dirImm d)
  | .resetWaveform => eventWord 0x02#8 0#16
  | .setMultiplier d => eventWord 0x03#8 (dirImm d)
  | .resetMultiplier => eventWord 0x04#8 0#16
  | .setDepth d => eventWord 0x05#8 (dirImm d)
  | .resetDepth => eventWord 0x06#8 0#16
  | .adjustSpeed delta => eventWord 0x07#8 (BitVec.ofInt 16 delta)
  | .resetSpeedAdjust => eventWord 0x08#8 0#16
  | .setBaseTempo ms => eventWord 0x09#8 (BitVec.ofNat 16 ms)
  | .tap => eventWord 0x0A#8 0#16
  | .modeHoldStart => eventWord 0x0B#8 0#16
  | .modeHoldEnd => eventWord 0x0C#8 0#16
  | .clearStatus => eventWord 0x0D#8 0#16
  | .sampleTick => eventWord 0x80#8 0#16
  | .msTick => eventWord 0x81#8 0#16
  | .syncRise => eventWord 0x82#8 0#16
  | .syncFall => eventWord 0x83#8 0#16

/-- The word whose low `nbits` bits are those of `w`; every bit above them is 0. -/
def tableWord (nbits w : Nat) : Option Word :=
  let bits := w % 2 ^ nbits
  if bits < 2 ^ 32 then some (BitVec.ofNat 32 bits) else none

/-- The event the decoder reads from a row of the opcode table. The table holds rows of both sources, and R85 puts no
test on the opcode of an `INT` word beyond the table, so the word is given to the decoder as an `INT` word. -/
def decodeTableWord (nbits w : Nat) : Option Instr :=
  match tableWord nbits w with
  | some word => (decode .int word).toOption
  | none => none

end Sys2Proof
end

