-- ==== Sys2Proof/Config.lean ====
section
/-! DEFINITION. The parameters of the block (spec/00_scope.md R7), their constraints (R8), their default values, and
the values no source gives (`OPEN` in R7): those are constants without a body, so that no proof can see them. -/

namespace Sys2Proof

/-- The parameters of R7 that are plain data. `FS` and `MS_DIV` are functions of `F_CLK`. They are fixed for the life
of the block (R72); the state carries them, so that a statement about every state is one about every choice of them. -/
structure Params where
  /-- `F_CLK`, the clock frequency in Hz. -/
  fClk : Nat
  /-- `LFO_MAX_TEMPO`, ms: the smallest accepted tempo bound, "the fastest rate". -/
  lfoMaxTempo : Nat
  /-- `LFO_MIN_TEMPO`, ms: the largest accepted tempo bound, "the slowest rate". -/
  lfoMinTempo : Nat
  /-- `DEFAULT_TEMPO`, ms. -/
  defaultTempo : Nat
  /-- `MODE_RESET_MIN_TIME`, ms. -/
  modeResetMinTime : Nat
  /-- `SINE_Q[0..63]`, the quarter-period sine table (R60 item 2, R104). -/
  sineQ : List Byte
  deriving DecidableEq, Repr

/-- `FS = F_CLK / 256`, the sample-tick rate in Hz (R7). -/
def Params.fs (p : Params) : Nat := p.fClk / 256

/-- `MS_DIV = F_CLK / 1000`, clock cycles per 1 ms tick (R7). -/
def Params.msDiv (p : Params) : Nat := p.fClk / 1000

/-- `SINE_Q[i]`. -/
def sineEntry (q : List Byte) (i : Nat) : Nat := (q.getD i 0).toNat

/-- The constraints a supplied `SINE_Q` must meet (R104). -/
abbrev SineTableOk (q : List Byte) : Prop :=
  q.length = 64 ∧ sineEntry q 0 = 0 ∧ sineEntry q 63 = 124 ∧
  (∀ i, i < 63 → sineEntry q i ≤ sineEntry q (i + 1)) ∧
  (∀ i, i < 64 → sineEntry q i ≤ 124)

/-- The constraints on the parameters (R8). The last clause is R63's "no state element is wider than 32 bits", applied
to `MsCounter` (R48). The range of `RNG_NEXT` (R8) is in the type of `Config.rngNext`. -/
abbrev Params.Ok (p : Params) : Prop :=
  (0 < p.fClk ∧ p.fClk % 32000 = 0) ∧
  (1 ≤ p.lfoMaxTempo ∧ p.lfoMaxTempo < p.defaultTempo ∧ p.defaultTempo < p.lfoMinTempo ∧ p.lfoMinTempo ≤ 65534) ∧
  p.lfoMinTempo - p.lfoMaxTempo ≤ 32767 ∧
  4 * ((1000 * 2 ^ 32) / (p.lfoMaxTempo * p.fs)) ≤ 2 ^ 31 ∧
  (1 ≤ p.modeResetMinTime ∧ p.modeResetMinTime ≤ 65535) ∧
  SineTableOk p.sineQ ∧
  p.msDiv ≤ 2 ^ 32

/-- `MODE_RESET_MIN_TIME - 1`: a free value. R7 marks the parameter OPEN, "has no default and must be supplied", and R8
bounds it to 1..65535 (D19, U3). -/
opaque Config.modeResetHold : Fin 65535

/-- `MODE_RESET_MIN_TIME` of the block: some value in 1..65535 (R7, R8). -/
def Config.modeResetMinTime : Nat := Config.modeResetHold.val + 1

/-- `RNG_INIT`, the unseeded state of the pseudo-random generator: a free value (R7, R34, D21, U2). -/
opaque Config.rngInit : Nat

/-- `RNG_SEED(count)`, the generator state seeded from a 16-bit `TempoMsCount`: a free function (R7, R183, D21, U2). -/
opaque Config.rngSeed : Half → Nat

/-- `RNG_NEXT(state)`, a draw in 0..7 and the next state: a free function, of which only the range is known
(R7, R8, R135, D21, U2). -/
opaque Config.rngNext : Nat → Fin 8 × Nat

/-- The default `SINE_Q` (R104): `floor(127.5 × (1 − cos(2π × i / 256)))`, written out as R104 writes it. -/
def Config.defaultSineQ : List Byte :=
  [  0,   0,   0,   0,   0,   0,   1,   1,   2,   3,   3,   4,   5,   6,   7,   8] ++
  [  9,  10,  12,  13,  15,  16,  18,  19,  21,  23,  25,  26,  28,  30,  33,  35] ++
  [ 37,  39,  41,  44,  46,  49,  51,  54,  56,  59,  61,  64,  67,  70,  72,  75] ++
  [ 78,  81,  84,  87,  90,  93,  96,  99, 102, 105, 108, 111, 115, 118, 121, 124]

/-- The parameters at the values of R7; the one R7 leaves open is the free value. -/
def Config.defaults : Params where
  fClk := 8000000
  lfoMaxTempo := 50
  lfoMinTempo := 10000
  defaultTempo := 1000
  modeResetMinTime := Config.modeResetMinTime
  sineQ := Config.defaultSineQ

end Sys2Proof
end

