-- ==== Sys2Proof/Machine/State.lean ====
section
/-! DEFINITION. The state of the core: every element of spec/10_state.md (R22 to R48), the parameters (R7), the input
pins the environment has listed, and what the output pins carried in the cycle just completed. Its value right after
reset is spec/70_reset_and_hazards.md R282. -/

namespace Sys2Proof.Machine

/-- Why a step faults. There is no constructor: no event raises an exception (R250), and
spec/93_implementation_defined.md says that the block has no fault. -/
inductive Fault
  deriving DecidableEq, Repr

/-- Why a step is refused. -/
inductive Refusal where
  /-- An event of the opcode table without a meaning yet: raised by `exec`'s arm of that event. Safe: the machine
  stops. No arm raises it. -/
  | notModelled (mnemonic : String)
  deriving DecidableEq, Repr

/-- The waveforms, in the order of their codes 0 to 6 (R37). Code 7 is never held. -/
inductive Waveform where
  | sine | rampUp | rampDown | triangle | square | quadPulse | random
  deriving DecidableEq, Repr

/-- The multipliers, in the order of their codes 0 to 9 (R27). Codes 10 to 15 are never held. -/
inductive Multiplier where
  | whole | dottedHalf | half | dottedQuarter | quarter | dottedEighth | eighth | dottedSixteenth | triplet | sixteenth
  deriving DecidableEq, Repr

/-- A 256-entry table memory (R61) as (index, byte) pairs, indexes strictly rising, holding just the entries that
differ from what an unlisted index reads as. -/
abbrev Memory := List Host.Cell

/-- The tempo model (R22 to R28). -/
structure Tempo where
  /-- `BaseTempo`, ms, unsigned (R22). -/
  baseTempo : Half
  /-- `TempoAdjustOffset`, ms, two's complement (R24). -/
  tempoAdjustOffset : Half
  /-- `BaseDutyCycle` (R25). -/
  baseDutyCycle : Word
  /-- `WorkingDutyCycle` (R26). -/
  workingDutyCycle : Word
  /-- `Multiplier` (R27). -/
  multiplier : Multiplier
  /-- `MultiplierAlignmentIndex` (R28). -/
  multiplierAlignmentIndex : BitVec 4
  deriving DecidableEq, Repr

/-- The phase accumulator engine (R29 to R36). -/
structure Phase where
  /-- `BasePhaseAccumulator` (R29). -/
  basePhaseAccumulator : Word
  /-- `WorkingPhaseAccumulator` (R30). -/
  workingPhaseAccumulator : Word
  /-- `BaseTableIndex` (R31). -/
  baseTableIndex : Byte
  /-- `WorkingTableIndex` (R32). -/
  workingTableIndex : Byte
  /-- `RandomNumber` (R33). -/
  randomNumber : Byte
  /-- `RngState` (R34): a number that stands for the generator's state, whose type no source gives. -/
  rngState : Nat
  /-- `PwmDuty` (R35). -/
  pwmDuty : Byte
  /-- `TempoIndicator`, the level of `tempo_out` (R36, R231). -/
  tempoIndicator : Bool
  deriving DecidableEq, Repr

/-- The waveform table builder (R37 to R40). `DepthOffset` is computed, not stored (R39). -/
structure Wave where
  /-- `Waveform` (R37). -/
  waveform : Waveform
  /-- `DepthRatio` (R38). -/
  depthRatio : BitVec 7
  /-- `DepthTable` (R40, R61). -/
  depthTable : Memory
  deriving DecidableEq, Repr

/-- The flag set `TempoState` (R41) and the sticky flag `ILL` (R42). -/
structure Flags where
  isCountingTempo : Bool
  hasReceivedTapInput : Bool
  hasRandomSeed : Bool
  isCountingModeResetTime : Bool
  isResettingMode : Bool
  ill : Bool
  deriving DecidableEq, Repr

/-- The millisecond counters (R43 to R45). -/
structure Counters where
  tempoMsCount : Half
  modeResetMsCount : Half
  speedAdjustMsCount : Half
  deriving DecidableEq, Repr

/-- The timing layer's registers (R48). -/
structure Timing where
  pwmCounter : Byte
  pwmActive : Byte
  /-- `MsCounter`: legal values `0..MS_DIV - 1`. Its width is `ceil(log2(MS_DIV))` bits, which `msCount` and `msNext`
  keep to; 32 bits is the width of its readback word, and the most that R63 allows (R46, R48, log 8). -/
  msCounter : Word
  sync1 : Bool
  sync2 : Bool
  sync3 : Bool
  syncArm : BitVec 2
  deriving DecidableEq, Repr

/-- What the environment drives on the input ports in one clock cycle (R234). -/
structure Inputs where
  rst : Bool
  cmdValid : Bool
  cmdWord : Word
  /-- The value of `sync_in` sampled at the edge that ends the cycle (R227). -/
  syncIn : Bool
  rdAddr : BitVec 9
  deriving DecidableEq, Repr

/-- What the block drove on its output ports in one clock cycle (R234). -/
structure Outputs where
  rdData : Word
  pwmOut : Bool
  tempoOut : Bool
  debounceReq : Bool
  modeResetReq : Bool
  deriving DecidableEq, Repr

/-- The machine. The fields from `tempo` to `timing` are the registers of the block. `par`, `inputs` and `out` are the
model's own: the parameters, the pins of the cycles to come (the head is the next cycle's), and the output pins of the
cycle just completed (during a cycle: of that cycle). -/
structure State where
  par : Params
  tempo : Tempo
  phase : Phase
  wave : Wave
  flags : Flags
  counters : Counters
  timing : Timing
  inputs : List Inputs
  out : Outputs
  deriving DecidableEq, Repr

/-- The input ports in a cycle the environment has listed nothing for: no reset, no command, `sync_in` low, readback
address 0. DESIGN CHOICE (log 3), unsafe. -/
def Inputs.idle : Inputs where
  rst := false
  cmdValid := false
  cmdWord := 0
  syncIn := false
  rdAddr := 0

/-- The output ports before cycle 0. DESIGN CHOICE (log 4), unsafe. -/
def Outputs.none : Outputs where
  rdData := 0
  pwmOut := false
  tempoOut := false
  debounceReq := false
  modeResetReq := false

/-- The machine right after reset, with the default parameters (R282). The depth table lists nothing: an unlisted
entry reads as the reset contents, `BuildTable(Sine, 100)` (R40). -/
def State.reset : State where
  par := Config.defaults
  tempo :=
    { baseTempo := 1000
      tempoAdjustOffset := 0
      baseDutyCycle := 137438
      workingDutyCycle := 137438
      multiplier := .quarter
      multiplierAlignmentIndex := 0 }
  phase :=
    { basePhaseAccumulator := 0
      workingPhaseAccumulator := 0
      baseTableIndex := 0
      workingTableIndex := 0
      randomNumber := 0
      rngState := Config.rngInit
      pwmDuty := 0
      tempoIndicator := false }
  wave := { waveform := .sine, depthRatio := 100, depthTable := [] }
  flags :=
    { isCountingTempo := false
      hasReceivedTapInput := false
      hasRandomSeed := false
      isCountingModeResetTime := false
      isResettingMode := false
      ill := false }
  counters := { tempoMsCount := 0, modeResetMsCount := 0, speedAdjustMsCount := 0 }
  timing :=
    { pwmCounter := 0
      pwmActive := 0
      msCounter := 0
      sync1 := false
      sync2 := false
      sync3 := false
      syncArm := 0 }
  inputs := []
  out := Outputs.none

end Sys2Proof.Machine
end

