-- ==== Sys2Proof/Machine/Flags.lean ====
section
/-! DEFINITION. The flags: the word `STATUS` that shows them (spec/10_state.md R46), the outputs that follow from
registers alone (spec/45_pwm_and_timing.md R222, R231) and the one-cycle request pulses (R36, R232). -/

namespace Sys2Proof.Machine

/-- A flag as a bit of a word. -/
def flagBit (b : Bool) (i : Nat) : Nat := if b then 2 ^ i else 0

/-- `STATUS`, readback address 0x000 (R46). -/
def statusWord (f : Flags) (tempoIndicator : Bool) : Word :=
  BitVec.ofNat 32
    (flagBit f.isCountingTempo 0 + flagBit f.hasReceivedTapInput 1 + flagBit f.hasRandomSeed 2 +
      flagBit f.isCountingModeResetTime 3 + flagBit f.isResettingMode 4 + flagBit f.ill 8 + flagBit tempoIndicator 9)

/-- `pwm_out = 1` exactly when `PwmCounter < PwmActive` (R222). -/
def pwmOut (t : Timing) : Bool := decide (t.pwmCounter.toNat < t.pwmActive.toNat)

/-- `Emit(debounce_req)` (R36, R200). -/
def emitDebounceReq (s : State) : State := { s with out := { s.out with debounceReq := true } }

/-- `Emit(mode_reset_req)` (R36, R202). -/
def emitModeResetReq (s : State) : State := { s with out := { s.out with modeResetReq := true } }

end Sys2Proof.Machine
end

