-- ==== Sys2Proof/Machine/Operands.lean ====
section
/-! DEFINITION. Operand values and the settings they step: `DIR` (spec/30_encoding.md R83), `clamp` (spec/00_scope.md
R11), the codes of the enumerations and the constant tables `RATIO_NUM`, `RATIO_DEN` and `ALIGN` (spec/10_state.md R27,
R37). -/

namespace Sys2Proof.Machine

/-- `clamp(v, lo, hi)` (R11). -/
def clamp (v lo hi : Int) : Int := if v < lo then lo else if hi < v then hi else v

/-- The value of `DIR`: +1 or −1 (R83). -/
def dirValue : Dir → Int
  | .plus => 1
  | .minus => -1

/-- The code of a waveform (R37). -/
def waveformCode : Waveform → Nat
  | .sine => 0
  | .rampUp => 1
  | .rampDown => 2
  | .triangle => 3
  | .square => 4
  | .quadPulse => 5
  | .random => 6

/-- The waveform of a code (R37); the codes that are never held go to the last one. -/
def waveformOfCode : Nat → Waveform
  | 0 => .sine
  | 1 => .rampUp
  | 2 => .rampDown
  | 3 => .triangle
  | 4 => .square
  | 5 => .quadPulse
  | _ => .random

/-- The code of a multiplier (R27). -/
def multiplierCode : Multiplier → Nat
  | .whole => 0
  | .dottedHalf => 1
  | .half => 2
  | .dottedQuarter => 3
  | .quarter => 4
  | .dottedEighth => 5
  | .eighth => 6
  | .dottedSixteenth => 7
  | .triplet => 8
  | .sixteenth => 9

/-- The multiplier of a code (R27); the codes that are never held go to the last one. -/
def multiplierOfCode : Nat → Multiplier
  | 0 => .whole
  | 1 => .dottedHalf
  | 2 => .half
  | 3 => .dottedQuarter
  | 4 => .quarter
  | 5 => .dottedEighth
  | 6 => .eighth
  | 7 => .dottedSixteenth
  | 8 => .triplet
  | _ => .sixteenth

/-- `RATIO_NUM` (R27). -/
def ratioNum : Multiplier → Nat
  | .whole => 1
  | .dottedHalf => 1
  | .half => 1
  | .dottedQuarter => 2
  | .quarter => 1
  | .dottedEighth => 4
  | .eighth => 2
  | .dottedSixteenth => 8
  | .triplet => 3
  | .sixteenth => 4

/-- `RATIO_DEN` (R27). -/
def ratioDen : Multiplier → Nat
  | .whole => 4
  | .dottedHalf => 3
  | .half => 2
  | .dottedQuarter => 3
  | .quarter => 1
  | .dottedEighth => 3
  | .eighth => 1
  | .dottedSixteenth => 3
  | .triplet => 1
  | .sixteenth => 1

/-- `ALIGN` (R27). -/
def align : Multiplier → Nat
  | .whole => 4
  | .dottedHalf => 3
  | .half => 2
  | .dottedQuarter => 3
  | .quarter => 1
  | .dottedEighth => 3
  | .eighth => 1
  | .dottedSixteenth => 3
  | .triplet => 2
  | .sixteenth => 1

/-- `(Waveform + DIR) mod 7`: wraps at both ends (R111). -/
def stepWaveform (w : Waveform) (d : Dir) : Waveform :=
  waveformOfCode (((waveformCode w : Int) + dirValue d) % 7).toNat

/-- `clamp(Multiplier + DIR, 0, 9)`: saturates at both ends (R158). -/
def stepMultiplier (m : Multiplier) (d : Dir) : Multiplier :=
  multiplierOfCode (clamp ((multiplierCode m : Int) + dirValue d) 0 9).toNat

/-- `clamp(DepthRatio + 5 × DIR, 0, 100)` (R113). -/
def stepDepth (r : BitVec 7) (d : Dir) : BitVec 7 :=
  BitVec.ofInt 7 (clamp ((r.toNat : Int) + 5 * dirValue d) 0 100)

end Sys2Proof.Machine
end

