-- ==== Sys2Proof/Machine/Ops.lean ====
section
/-! DEFINITION. The named operations over memory and registers: the waveform shapes and the depth scaling
(spec/40_waveform_table.md R100 to R110), the table memory (spec/20_memory.md R61, R74), the duty-cycle arithmetic
(spec/42_tempo_model.md R150, R151) and the named procedures of spec/00_scope.md R13. The block has no exception to
take or to return from (spec/60_exceptions.md R250, R257); `illegalEvent` is what it does with an illegal word (R252). -/

namespace Sys2Proof.Machine

/-! ### Shapes and depth -/

/-- The sine table from its quarter table, in the closed form of R103. -/
def sineShape (q : List Byte) (i : Nat) : Nat :=
  if i < 64 then sineEntry q i
  else if i < 128 then 255 - sineEntry q (127 - i)
  else if i < 192 then 255 - sineEntry q (i - 128)
  else sineEntry q (255 - i)

/-- The four ranges in which QuadPulse is high (R107). -/
def quadPulseHigh (i : Nat) : Bool :=
  i < 0x10 || (0x20 ≤ i && i < 0x30) || (0x40 ≤ i && i < 0x50) || (0x60 ≤ i && i < 0x70)

/-- `Shape(w, i)` for `i` in 0..255 (R100 to R107). -/
def shape (q : List Byte) (w : Waveform) (i : Nat) : Nat :=
  match w with
  | .sine => sineShape q i
  | .rampUp => i
  | .rampDown => 255 - i
  | .triangle => if i < 128 then 2 * i else 2 * (255 - i)
  | .square => if i < 128 then 0 else 255
  | .quadPulse => if quadPulseHigh i then 255 else 0
  | .random => i

/-- `DepthOffset(r)` (R39, R108). -/
def depthOffset (r : Nat) : Nat := (255 * (100 - r)) / 100

/-- `CalcSignalDepth(v, r)` (R108). -/
def calcSignalDepth (v r : Nat) : Nat := if r = 100 then v else depthOffset r + (v * r) / 100

/-- Entry `i` of the table of waveform `w` at depth `r` (R110). -/
def tableEntry (q : List Byte) (w : Waveform) (r i : Nat) : Byte :=
  BitVec.ofNat 8 (calcSignalDepth (shape q w i) r)

/-! ### The table memory -/

/-- What an unlisted entry reads as: the reset contents `BuildTable(Sine, 100)` for the default `SINE_Q` (R40). -/
def unlisted (i : Nat) : Byte := tableEntry Config.defaultSineQ .sine 100 i

/-- Entry `i` of a table memory. -/
def readEntry : Memory → Nat → Byte
  | [], i => unlisted i
  | (k, v) :: m, i => if k = i then v else readEntry m i

/-- `DepthTable[i]` (R61); `TableRead(i)` (R74). Every 8-bit index is valid. -/
def tableRead (m : Memory) (i : Byte) : Byte := readEntry m i.toNat

/-- `DepthTable[i] <- v` (R12), keeping the canonical form. -/
def writeEntry : Memory → Nat → Byte → Memory
  | [], i, v => if v = unlisted i then [] else [(i, v)]
  | (k, w) :: m, i, v =>
    if i < k then (if v = unlisted i then (k, w) :: m else (i, v) :: (k, w) :: m)
    else if k = i then (if v = unlisted i then m else (i, v) :: m)
    else (k, w) :: writeEntry m i v

/-- The cell listed for entry `i` when its content is `v`. -/
def listedCell (f : Nat → Byte) (i : Nat) : Option Host.Cell :=
  if f i = unlisted i then none else some (i, f i)

/-- The memory whose 256 entries are `f 0, …, f 255`: all of them written at once (R71). -/
def memoryOf (f : Nat → Byte) : Memory := (List.range 256).filterMap (listedCell f)

/-- The canonical form: indexes strictly rising and within the table, no entry equal to what it would read as
unlisted. -/
abbrev memoryWf (m : Memory) : Prop :=
  m.Pairwise (fun a b => a.1 < b.1) ∧ ∀ c ∈ m, c.1 < 256 ∧ c.2 ≠ unlisted c.1

/-- The contents `BuildTable` gives for a waveform and a depth (R110). -/
def builtTable (q : List Byte) (w : Waveform) (r : Nat) : Memory := memoryOf (tableEntry q w r)

/-- `BuildTable()`: every entry from the current `Waveform` and `DepthRatio`, as one step (R71, R110). -/
def buildTable (s : State) : State :=
  { s with wave := { s.wave with
      depthTable := builtTable s.par.sineQ s.wave.waveform s.wave.depthRatio.toNat } }

/-! ### The tempo model -/

/-- `DUTY(T) = (1000 × 2^32) div (T × FS)` (R150). -/
def duty (p : Params) (t : Nat) : Nat := (1000 * 2 ^ 32) / (t * p.fs)

/-- `WorkingDuty(BD, M)` (R151). -/
def workingDuty (bd : Word) (m : Multiplier) : Word :=
  BitVec.ofNat 32 ((bd.toNat * ratioNum m) / ratioDen m)

/-- The effective tempo, `BaseTempo + TempoAdjustOffset`, an exact integer (R23). -/
def effectiveTempo (t : Tempo) : Int := (t.baseTempo.toNat : Int) + t.tempoAdjustOffset.toInt

/-- `Recompute()` (R152). -/
def recompute (s : State) : State :=
  let bd : Word := BitVec.ofNat 32 (duty s.par (effectiveTempo s.tempo).toNat)
  { s with tempo := { s.tempo with
      baseDutyCycle := bd
      workingDutyCycle := workingDuty bd s.tempo.multiplier } }

/-- The value `AdjustPhaseAccumulation` writes (R153): the exact product, divided, then reduced modulo 2^32. -/
def adjustedPhase (b : Word) (m : Multiplier) (mai : BitVec 4) : Word :=
  BitVec.ofNat 32 ((b.toNat * ratioNum m * mai.toNat) / ratioDen m)

/-- `AdjustPhaseAccumulation()` (R153). -/
def adjustPhaseAccumulation (s : State) : State :=
  { s with phase := { s.phase with
      workingPhaseAccumulator :=
        adjustedPhase s.phase.basePhaseAccumulator s.tempo.multiplier s.tempo.multiplierAlignmentIndex } }

/-- A change of the multiplier to `m`, as `SET_MULTIPLIER` and `RESET_MULTIPLIER` make it (R158, R159): nothing when
`m` is the one held. -/
def changeMultiplier (m : Multiplier) (s : State) : State :=
  if m = s.tempo.multiplier then s
  else
    adjustPhaseAccumulation
      { s with tempo := { s.tempo with
          multiplier := m
          workingDutyCycle := workingDuty s.tempo.baseDutyCycle m } }

/-- The range test of `SetBaseTempo`, strict at both ends (R154). -/
abbrev tempoInRange (p : Params) (ms : Nat) : Prop := p.lfoMaxTempo < ms ∧ ms < p.lfoMinTempo

/-- The hysteresis test of `SetBaseTempo`, `abs(ms - BaseTempo) <= 2` (R154). -/
abbrev tempoRedundant (base : Half) (ms : Nat) : Prop := ((ms : Int) - (base.toNat : Int)).natAbs ≤ 2

/-- `SetBaseTempo(ms)` (R154). -/
def setBaseTempo (ms : Nat) (s : State) : State :=
  if ¬ tempoInRange s.par ms then s
  else if tempoRedundant s.tempo.baseTempo ms then s
  else
    recompute
      { s with tempo := { s.tempo with
          baseTempo := BitVec.ofNat 16 ms
          tempoAdjustOffset := 0 } }

/-! ### The phase engine -/

/-- The index of a phase: its top byte (R31, R32). -/
def phaseIndex (phase : Word) : Byte := phase.extractLsb' 24 8

/-- The alignment index `AlignWaveform` tests: 12 wraps to 0 first (R136). -/
def alignTested (mai : BitVec 4) : BitVec 4 := if 12 ≤ mai.toNat then 0 else mai

/-- `AlignWaveform()` (R136). -/
def alignWaveform (s : State) : State :=
  let tested := alignTested s.tempo.multiplierAlignmentIndex
  { s with
    phase := { s.phase with
      workingPhaseAccumulator :=
        if tested.toNat % align s.tempo.multiplier = 0 then 0 else s.phase.workingPhaseAccumulator }
    tempo := { s.tempo with multiplierAlignmentIndex := tested + 1 } }

/-- `ResetSignals()` (R180): exactly three elements. -/
def resetSignals (s : State) : State :=
  { s with
    phase := { s.phase with basePhaseAccumulator := 0, workingPhaseAccumulator := 0 }
    tempo := { s.tempo with multiplierAlignmentIndex := 0 } }

/-! ### The millisecond prescaler -/

/-- The width of `MsCounter`: `ceil(log2(MS_DIV))` bits, 13 at the default `MS_DIV` (R48). Under R8 `MS_DIV` is at
least 32. -/
def msWidth (p : Params) : Nat := (p.msDiv - 1).log2 + 1

/-- `MsCounter` as the block reads it: the bits of its width, and none of those above (R48, log 8). -/
def msCount (p : Params) (t : Timing) : Nat := t.msCounter.toNat % 2 ^ msWidth p

/-- `MsCounter` after a cycle (R225), cut to its width (R48). -/
def msNext (p : Params) (t : Timing) : Word :=
  BitVec.ofNat 32 (if msCount p t = p.msDiv - 1 then 0 else (msCount p t + 1) % 2 ^ msWidth p)

/-! ### The tap-count state machine -/

/-- `StartTempoCount()` (R181). -/
def startTempoCount (s : State) : State :=
  let s := resetSignals s
  { s with
    flags := { s.flags with isCountingTempo := true }
    counters := { s.counters with tempoMsCount := 0 } }

/-- The random seeding inside `StopTempoCount` (R182, R183). -/
def seedOnFirstStop (s : State) : State :=
  if s.flags.hasReceivedTapInput = false ∧ s.flags.hasRandomSeed = false then
    { s with
      phase := { s.phase with rngState := Config.rngSeed s.counters.tempoMsCount }
      flags := { s.flags with hasRandomSeed := true } }
  else s

/-- `StopTempoCount()` (R182). -/
def stopTempoCount (s : State) : State :=
  let s := resetSignals s
  let s := { s with flags := { s.flags with isCountingTempo := false } }
  let s := seedOnFirstStop s
  let s := { s with flags := { s.flags with hasReceivedTapInput := true } }
  setBaseTempo s.counters.tempoMsCount.toNat s

/-! ### Illegal words -/

/-- `IllegalEvent()` (R252). -/
def illegalEvent (s : State) : State := { s with flags := { s.flags with ill := true } }

end Sys2Proof.Machine
end

