-- ==== Sys2Proof/Machine/Dispatcher.lean ====
section
/-! DEFINITION. The 1 kHz tick dispatcher and the system commands (spec/44_tick_dispatcher.md R200 to R207). -/

namespace Sys2Proof.Machine

/-- Tempo count step with its timeout (R201). -/
def tempoCountStep (s : State) : State :=
  if s.flags.isCountingTempo then
    let n := s.counters.tempoMsCount + 1
    let s := { s with counters := { s.counters with tempoMsCount := n } }
    if s.par.lfoMinTempo < n.toNat then { s with flags := { s.flags with isCountingTempo := false } } else s
  else s

/-- Mode-reset hold timer step (R202). -/
def modeHoldStep (s : State) : State :=
  if s.flags.isCountingModeResetTime then
    let n := s.counters.modeResetMsCount + 1
    if s.par.modeResetMinTime ≤ n.toNat then
      emitModeResetReq
        { s with
          flags := { s.flags with isResettingMode := true, isCountingModeResetTime := false }
          counters := { s.counters with modeResetMsCount := 0 } }
    else { s with counters := { s.counters with modeResetMsCount := n } }
  else s

/-- Speed-adjust idle counter step, saturating (R203). -/
def speedIdleStep (s : State) : State :=
  if s.counters.speedAdjustMsCount.toNat < 0xFFFF then
    { s with counters := { s.counters with speedAdjustMsCount := s.counters.speedAdjustMsCount + 1 } }
  else s

/-- `MS_TICK` (R200). -/
def execMsTick (s : State) : Host.Outcome State Fault Refusal :=
  .next (speedIdleStep (modeHoldStep (tempoCountStep (emitDebounceReq s))))

/-- `MODE_HOLD_START` (R204). -/
def execModeHoldStart (s : State) : Host.Outcome State Fault Refusal :=
  .next { s with
    flags := { s.flags with isCountingModeResetTime := true, isResettingMode := false }
    counters := { s.counters with modeResetMsCount := 0 } }

/-- `MODE_HOLD_END` (R205). -/
def execModeHoldEnd (s : State) : Host.Outcome State Fault Refusal :=
  .next { s with
    flags := { s.flags with isCountingModeResetTime := false, isResettingMode := false }
    counters := { s.counters with modeResetMsCount := 0 } }

/-- `NOP` (R206). -/
def execNop (s : State) : Host.Outcome State Fault Refusal := .next s

/-- `CLEAR_STATUS` (R207). -/
def execClearStatus (s : State) : Host.Outcome State Fault Refusal :=
  .next { s with flags := { s.flags with ill := false } }

end Sys2Proof.Machine
end

