-- ==== Sys2Proof/Machine/PhaseEngine.lean ====
section
/-! DEFINITION. The sample tick (spec/41_phase_accumulator.md R131 to R137), in the steps of R131. -/

namespace Sys2Proof.Machine

/-- The base step: advance the base accumulator and its index (R132). -/
def baseStep (s : State) : State :=
  let b := s.phase.basePhaseAccumulator + s.tempo.baseDutyCycle
  { s with phase := { s.phase with basePhaseAccumulator := b, baseTableIndex := phaseIndex b } }

/-- The base-cycle boundary: when the base index fell, toggle the indicator, then align (R133). -/
def boundaryStep (prevBase : Byte) (s : State) : State :=
  if s.phase.baseTableIndex.toNat < prevBase.toNat then
    alignWaveform { s with phase := { s.phase with tempoIndicator := !s.phase.tempoIndicator } }
  else s

/-- The working step: advance the working accumulator and its index (R134). -/
def workingStep (s : State) : State :=
  let w := s.phase.workingPhaseAccumulator + s.tempo.workingDutyCycle
  { s with phase := { s.phase with workingPhaseAccumulator := w, workingTableIndex := phaseIndex w } }

/-- The index the output is looked up at: `RandomNumber` for Random, else `WorkingTableIndex` (R137). -/
def outputIndex (s : State) : Byte :=
  if s.wave.waveform = .random then s.phase.randomNumber else s.phase.workingTableIndex

/-- Output selection (R137). -/
def outputStep (s : State) : State :=
  { s with phase := { s.phase with pwmDuty := tableRead s.wave.depthTable (outputIndex s) } }

/-- The draw on a working wrap (R135). -/
def drawStep (prevWork : Byte) (s : State) : State :=
  if s.phase.workingTableIndex.toNat < prevWork.toNat then
    let draw := Config.rngNext s.phase.rngState
    { s with phase := { s.phase with randomNumber := BitVec.ofNat 8 (32 * draw.1.val), rngState := draw.2 } }
  else s

/-- `SAMPLE_TICK` (R131). -/
def execSampleTick (s : State) : Host.Outcome State Fault Refusal :=
  let prevBase := s.phase.baseTableIndex
  let prevWork := s.phase.workingTableIndex
  .next (drawStep prevWork (outputStep (workingStep (boundaryStep prevBase (baseStep s)))))

end Sys2Proof.Machine
end

