-- ==== Sys2Proof/Machine/TapSync.lean ====
section
/-! DEFINITION. The events of the tap-count state machine (spec/43_tap_sync.md R184 to R186). -/

namespace Sys2Proof.Machine

/-- `TAP` (R184): the first tap in IDLE, the second in COUNTING. -/
def execTap (s : State) : Host.Outcome State Fault Refusal :=
  if s.flags.isCountingTempo = false then .next (startTempoCount s) else .next (stopTempoCount s)

/-- `SYNC_RISE` (R185): stops, whatever the state. -/
def execSyncRise (s : State) : Host.Outcome State Fault Refusal := .next (stopTempoCount s)

/-- `SYNC_FALL` (R186): starts, whatever the state. -/
def execSyncFall (s : State) : Host.Outcome State Fault Refusal := .next (startTempoCount s)

end Sys2Proof.Machine
end

