-- ==== Sys2Proof/Machine/TempoModel.lean ====
section
/-! DEFINITION. The events of the tempo model (spec/42_tempo_model.md R155 to R159). -/

namespace Sys2Proof.Machine

/-- `SET_BASE_TEMPO MS` (R155). -/
def execSetBaseTempo (ms : Nat) (s : State) : Host.Outcome State Fault Refusal :=
  .next (setBaseTempo ms s)

/-- `ADJUST_SPEED DELTA` (R156): the range test is inclusive, and the idle counter is cleared whether or not the
adjustment is accepted. -/
def execAdjustSpeed (delta : Int) (s : State) : Host.Outcome State Fault Refusal :=
  let s := { s with counters := { s.counters with speedAdjustMsCount := 0 } }
  let e := effectiveTempo s.tempo + delta
  if e < (s.par.lfoMaxTempo : Int) ∨ (s.par.lfoMinTempo : Int) < e then .next s
  else
    .next (recompute
      { s with tempo := { s.tempo with
          tempoAdjustOffset := BitVec.ofInt 16 (s.tempo.tempoAdjustOffset.toInt + delta) } })

/-- `RESET_SPEED_ADJUST` (R157). -/
def execResetSpeedAdjust (s : State) : Host.Outcome State Fault Refusal :=
  .next (recompute { s with tempo := { s.tempo with tempoAdjustOffset := 0 } })

/-- `SET_MULTIPLIER DIR` (R158). -/
def execSetMultiplier (dir : Dir) (s : State) : Host.Outcome State Fault Refusal :=
  .next (changeMultiplier (stepMultiplier s.tempo.multiplier dir) s)

/-- `RESET_MULTIPLIER` (R159). -/
def execResetMultiplier (s : State) : Host.Outcome State Fault Refusal :=
  .next (changeMultiplier .quarter s)

end Sys2Proof.Machine
end

