-- ==== Sys2Proof/Machine/WaveTable.lean ====
section
/-! DEFINITION. The events of the waveform table builder (spec/40_waveform_table.md R111 to R114). -/

namespace Sys2Proof.Machine

/-- `SET_WAVEFORM DIR` (R111). -/
def execSetWaveform (dir : Dir) (s : State) : Host.Outcome State Fault Refusal :=
  .next (buildTable { s with wave := { s.wave with waveform := stepWaveform s.wave.waveform dir } })

/-- `RESET_WAVEFORM` (R112). -/
def execResetWaveform (s : State) : Host.Outcome State Fault Refusal :=
  .next (buildTable { s with wave := { s.wave with waveform := .sine } })

/-- `SET_DEPTH DIR` (R113): rebuilds only when the ratio changes. -/
def execSetDepth (dir : Dir) (s : State) : Host.Outcome State Fault Refusal :=
  let new := stepDepth s.wave.depthRatio dir
  if new = s.wave.depthRatio then .next s
  else .next (buildTable { s with wave := { s.wave with depthRatio := new } })

/-- `RESET_DEPTH` (R114). -/
def execResetDepth (s : State) : Host.Outcome State Fault Refusal :=
  .next (buildTable { s with wave := { s.wave with depthRatio := 100 } })

end Sys2Proof.Machine
end

