-- ==== Sys2Proof/Machine/Dispatch.lean ====
section
/-! DEFINITION. One event as one atomic step of the state (spec/20_memory.md R71): the meaning of each event. -/

namespace Sys2Proof.Machine

def exec (i : Instr) (s : State) : Host.Outcome State Fault Refusal :=
  match i with
  | .nop => Sys2Proof.Machine.execNop s
  | .setWaveform dir => Sys2Proof.Machine.execSetWaveform dir s
  | .resetWaveform => Sys2Proof.Machine.execResetWaveform s
  | .setMultiplier dir => Sys2Proof.Machine.execSetMultiplier dir s
  | .resetMultiplier => Sys2Proof.Machine.execResetMultiplier s
  | .setDepth dir => Sys2Proof.Machine.execSetDepth dir s
  | .resetDepth => Sys2Proof.Machine.execResetDepth s
  | .adjustSpeed delta => Sys2Proof.Machine.execAdjustSpeed delta s
  | .resetSpeedAdjust => Sys2Proof.Machine.execResetSpeedAdjust s
  | .setBaseTempo ms => Sys2Proof.Machine.execSetBaseTempo ms s
  | .tap => Sys2Proof.Machine.execTap s
  | .modeHoldStart => Sys2Proof.Machine.execModeHoldStart s
  | .modeHoldEnd => Sys2Proof.Machine.execModeHoldEnd s
  | .clearStatus => Sys2Proof.Machine.execClearStatus s
  | .sampleTick => Sys2Proof.Machine.execSampleTick s
  | .msTick => Sys2Proof.Machine.execMsTick s
  | .syncRise => Sys2Proof.Machine.execSyncRise s
  | .syncFall => Sys2Proof.Machine.execSyncFall s

end Sys2Proof.Machine
end

