-- ==== Sys2Proof/Machine/Readback.lean ====
section
/-! DEFINITION. The readback port (spec/10_state.md R46; spec/20_memory.md R62, R67): a read-only window of 512 words
over all of the state but `RngState`. -/

namespace Sys2Proof.Machine

/-- The word of the readback map at an address (R46). Bits a row does not list, and addresses 0x016 to 0x0FF, read 0. -/
def readback (s : State) (addr : BitVec 9) : Word :=
  match addr.toNat with
  | 0x000 => statusWord s.flags s.phase.tempoIndicator
  | 0x001 => s.tempo.baseTempo.setWidth 32
  | 0x002 => s.tempo.tempoAdjustOffset.signExtend 32
  | 0x003 => (BitVec.ofInt 16 (effectiveTempo s.tempo)).setWidth 32
  | 0x004 => BitVec.ofNat 32 (waveformCode s.wave.waveform)
  | 0x005 => BitVec.ofNat 32 (multiplierCode s.tempo.multiplier)
  | 0x006 => s.wave.depthRatio.setWidth 32
  | 0x007 => BitVec.ofNat 32 (depthOffset s.wave.depthRatio.toNat)
  | 0x008 => s.tempo.baseDutyCycle
  | 0x009 => s.tempo.workingDutyCycle
  | 0x00A => s.phase.basePhaseAccumulator
  | 0x00B => s.phase.workingPhaseAccumulator
  | 0x00C => (s.phase.workingTableIndex ++ s.phase.baseTableIndex).setWidth 32
  | 0x00D => s.tempo.multiplierAlignmentIndex.setWidth 32
  | 0x00E => s.phase.randomNumber.setWidth 32
  | 0x00F => (s.timing.pwmActive ++ s.phase.pwmDuty).setWidth 32
  | 0x010 => s.counters.tempoMsCount.setWidth 32
  | 0x011 => s.counters.modeResetMsCount.setWidth 32
  | 0x012 => s.counters.speedAdjustMsCount.setWidth 32
  | 0x013 => s.timing.pwmCounter.setWidth 32
  | 0x014 => BitVec.ofNat 32 (msCount s.par s.timing)
  | 0x015 =>
    BitVec.ofNat 32 (flagBit s.timing.sync1 0 + flagBit s.timing.sync2 1 + flagBit s.timing.sync3 2 +
      16 * s.timing.syncArm.toNat)
  | a => if 0x100 ≤ a then (readEntry s.wave.depthTable (a - 0x100)).setWidth 32 else 0

end Sys2Proof.Machine
end

