-- ==== Sys2Proof/Machine/Cycle.lean ====
section
/-! DEFINITION. One clock cycle (spec/45_pwm_and_timing.md R220 to R234): which events it holds and in what order, the
updates of the timing registers after them, the output ports, and reset (spec/70_reset_and_hazards.md R280, R282). -/

namespace Sys2Proof.Machine

/-! ### Signals from the registers at the start of the cycle -/

/-- `sample_tick` (R225). -/
def sampleTickDue (s : State) : Bool := s.timing.pwmCounter == 255

/-- `MsCounter = MS_DIV - 1`, the last cycle of a millisecond (R225). -/
def msTickDue (s : State) : Bool := msCount s.par s.timing == s.par.msDiv - 1

/-- `sync_rise` (R228). -/
def syncRiseDue (s : State) : Bool := s.timing.syncArm == 3 && s.timing.sync2 && !s.timing.sync3

/-- `sync_fall` (R228). -/
def syncFallDue (s : State) : Bool := s.timing.syncArm == 3 && !s.timing.sync2 && s.timing.sync3

/-- An event word with its source (R81). -/
abbrev EventWord := Source × Word

/-- The event words of a cycle, in the fixed order of R230: the words the timing layer generates (R81, R84), then the
command word (R82). -/
def cycleEvents (inp : Inputs) (s : State) : List EventWord :=
  (if sampleTickDue s then [(.int, 0x80000000#32)] else []) ++
  (if msTickDue s then [(.int, 0x81000000#32)] else []) ++
  (if syncRiseDue s then [(.int, 0x82000000#32)] else []) ++
  (if syncFallDue s then [(.int, 0x83000000#32)] else []) ++
  (if inp.cmdValid then [(.ext, inp.cmdWord)] else [])

/-! ### Applying events -/

/-- One event word: decode it and run its event, or `IllegalEvent()` (R85, R230, R252). -/
def applyWord (e : EventWord) (s : State) : Host.Outcome State Fault Refusal :=
  match decode e.1 e.2 with
  | .ok i => exec i s
  | .error _ => .next (illegalEvent s)

/-- An outcome passed on to what follows it: a later event of the cycle or of a trace, or the end of the cycle. -/
def andThen (o : Host.Outcome State Fault Refusal) (f : State → Host.Outcome State Fault Refusal) :
    Host.Outcome State Fault Refusal :=
  match o with
  | .next t => f t
  | .fault r => .fault r
  | .refused r => .refused r

/-- Events one after another, each on the state the one before it left (R69, R230). -/
def applyWords : List EventWord → State → Host.Outcome State Fault Refusal
  | [], s => .next s
  | e :: es, s => andThen (applyWord e s) (applyWords es)

/-! ### The cycle's edges -/

/-- The output ports from the registers at the start of the cycle, with no pulse yet (R36, R62, R222, R231). -/
def openCycle (inp : Inputs) (s : State) : State :=
  { s with out :=
      { rdData := readback s inp.rdAddr
        pwmOut := pwmOut s.timing
        tempoOut := s.phase.tempoIndicator
        debounceReq := false
        modeResetReq := false } }

/-- The timing registers after all events of the cycle (R221, R225, R228); `MsCounter` keeps to its width (R48). -/
def closeCycle (inp : Inputs) (s : State) : State :=
  { s with timing :=
      { pwmCounter := s.timing.pwmCounter + 1
        pwmActive := if s.timing.pwmCounter = 255 then s.phase.pwmDuty else s.timing.pwmActive
        msCounter := msNext s.par s.timing
        sync1 := inp.syncIn
        sync2 := s.timing.sync1
        sync3 := s.timing.sync2
        syncArm := if s.timing.syncArm.toNat < 3 then s.timing.syncArm + 1 else s.timing.syncArm } }

/-- Every register at its reset value, for the parameters of the block (R280, R282). The parameters, the pins to come
and the output pins are not registers. -/
def resetRegisters (s : State) : State :=
  { par := s.par
    tempo :=
      { baseTempo := BitVec.ofNat 16 s.par.defaultTempo
        tempoAdjustOffset := 0
        baseDutyCycle := BitVec.ofNat 32 (duty s.par s.par.defaultTempo)
        workingDutyCycle := workingDuty (BitVec.ofNat 32 (duty s.par s.par.defaultTempo)) .quarter
        multiplier := .quarter
        multiplierAlignmentIndex := 0 }
    phase := State.reset.phase
    wave := { waveform := .sine, depthRatio := 100, depthTable := builtTable s.par.sineQ .sine 100 }
    flags := State.reset.flags
    counters := State.reset.counters
    timing := State.reset.timing
    inputs := s.inputs
    out := s.out }

/-- One clock cycle with the given input pins (R230; R280 when `rst = 1`). -/
def cycle (inp : Inputs) (s : State) : Host.Outcome State Fault Refusal :=
  if inp.rst then .next (resetRegisters (openCycle inp s))
  else
    andThen (applyWords (cycleEvents inp s) (openCycle inp s)) (fun t => .next (closeCycle inp t))

/-! ### The pins of the next cycle -/

/-- The input pins of the next cycle: the head of the list, or idle pins when nothing is listed. -/
def nextInputs (s : State) : Inputs := s.inputs.headD Inputs.idle

/-- The pins of the next cycle taken off the list. -/
def dropInputs (s : State) : State := { s with inputs := s.inputs.tail }

/-- The next cycle's pins with a command on the command port and no reset. -/
def withCommand (s : State) (word : Word) : State :=
  { s with inputs := { nextInputs s with rst := false, cmdValid := true, cmdWord := word } :: s.inputs.tail }

/-- The next cycle's pins with no command and no reset. -/
def withoutCommand (s : State) : State :=
  { s with inputs := { nextInputs s with rst := false, cmdValid := false } :: s.inputs.tail }

/-- The timing registers of a cycle that generates an internal event (R225, R228). -/
def timingFor (p : Params) (i : Instr) (t : Timing) : Timing :=
  match i with
  | .sampleTick => { t with pwmCounter := 255 }
  | .msTick => { t with msCounter := BitVec.ofNat 32 (p.msDiv - 1) }
  | .syncRise => { t with syncArm := 3, sync2 := true, sync3 := false }
  | .syncFall => { t with syncArm := 3, sync2 := false, sync3 := true }
  | _ => t

/-- `s` with an event word placed so that the next cycle runs it. A word that is an event of the command port, or no
event at all, is placed on the command port. A word the block generates itself is illegal there (R86): it is placed by
putting the timing registers where the block generates it (R225, R228), with no command in that cycle. -/
def placeWord (s : State) (word : Word) : State :=
  match decode .int word with
  | .ok i =>
    match i.source with
    | .int => { withoutCommand s with timing := timingFor s.par i s.timing }
    | .ext => withCommand s word
  | .error _ => withCommand s word

end Sys2Proof.Machine
end

