-- ==== Sys2Proof/Machine/Step.lean ====
section
/-! DEFINITION. One step of the machine is one clock cycle (spec/45_pwm_and_timing.md R230). -/

namespace Sys2Proof.Machine

/-- One clock cycle with the next listed input pins. -/
def step (s : State) : Host.Outcome State Fault Refusal := cycle (nextInputs s) (dropInputs s)

/-- `s` with an event word of `nbits` bits placed so that the next step runs it. A word that does not fit 32 bits is no
event word (R80), and places nothing. -/
def State.withFetchWord (s : State) (nbits w : Nat) : State :=
  match tableWord nbits w with
  | some word => placeWord s word
  | none => s

end Sys2Proof.Machine
end

