-- ==== Sys2Proof/Machine/Trace.lean ====
section
/-! DEFINITION. Traces, pseudo-events and the assembler (spec/30_encoding.md R88 to R90). A trace is a list of event
lines applied in order, one event per core step; it says nothing of clock cycles. -/

namespace Sys2Proof.Machine

/-- One event of a trace: an event written by its mnemonic, of either source, or a raw word presented on the command
port (R89). -/
inductive TraceItem where
  | event (i : Instr)
  | word (w : Word)
  deriving DecidableEq, Repr

/-- One step of a trace: a raw word is decoded like any command (R89). -/
def runItem : TraceItem → State → Host.Outcome State Fault Refusal
  | .event i, s => exec i s
  | .word w, s => applyWord (.ext, w) s

/-- A trace, applied in order (R89). -/
def runTrace : List TraceItem → State → Host.Outcome State Fault Refusal
  | [], s => .next s
  | x :: xs, s => andThen (runItem x s) (runTrace xs)

/-- The pseudo-events (R90). -/
inductive Pseudo where
  | waveNext | wavePrev | multUp | multDown | depthUp | depthDown
  | samples (n : Nat)
  | ms (n : Nat)
  | resetSettings
  deriving DecidableEq, Repr

/-- The expansion of a pseudo-event (R90); `.repeat n` stands for `n` copies (R89). `RESET_SETTINGS` is its four events:
its `RESET_MULTIPLIER` writes `WorkingPhaseAccumulator` when the multiplier is not Quarter (R159), though R90 says that
`RESET_SETTINGS` leaves the accumulators. DESIGN CHOICE (log 20), unsafe: the expansion is followed. -/
def Pseudo.expand : Pseudo → List Instr
  | .waveNext => [.setWaveform .plus]
  | .wavePrev => [.setWaveform .minus]
  | .multUp => [.setMultiplier .plus]
  | .multDown => [.setMultiplier .minus]
  | .depthUp => [.setDepth .plus]
  | .depthDown => [.setDepth .minus]
  | .samples n => List.replicate n .sampleTick
  | .ms n => List.replicate n .msTick
  | .resetSettings => [.resetWaveform, .resetMultiplier, .resetDepth, .resetSpeedAdjust]

/-! ### The assembler -/

/-- A line without its comment (R88). -/
def dropComment : List Char → List Char
  | [] => []
  | c :: cs => if c = ';' then [] else c :: dropComment cs

/-- The tokens of a line, with the token read so far. -/
def tokensFrom : List Char → List Char → List (List Char)
  | [], cur => if cur.isEmpty then [] else [cur]
  | c :: cs, cur =>
    if c = ' ' ∨ c = '\t' then (if cur.isEmpty then tokensFrom cs [] else cur :: tokensFrom cs [])
    else tokensFrom cs (cur ++ [c])

/-- The value of a digit in base 10 or 16. -/
def digitValue (base : Nat) (c : Char) : Option Nat :=
  let n := c.toNat
  let v := if 48 ≤ n ∧ n ≤ 57 then n - 48
    else if 65 ≤ n ∧ n ≤ 70 then n - 55
    else if 97 ≤ n ∧ n ≤ 102 then n - 87
    else base
  if v < base then some v else none

/-- Digits read after the value so far. -/
def digitsFrom (base : Nat) : List Char → Nat → Option Nat
  | [], acc => some acc
  | c :: cs, acc =>
    match digitValue base c with
    | some v => digitsFrom base cs (base * acc + v)
    | none => none

/-- A non-empty run of digits. -/
def readDigits (base : Nat) (cs : List Char) : Option Nat := if cs.isEmpty then none else digitsFrom base cs 0

/-- A hexadecimal literal `0x...` (R88). -/
def readHex : List Char → Option Nat
  | '0' :: 'x' :: cs => readDigits 16 cs
  | _ => none

/-- A signed decimal integer. -/
def readSigned : List Char → Option Int
  | '+' :: cs => (readDigits 10 cs).map Int.ofNat
  | '-' :: cs => (readDigits 10 cs).map (fun n => -Int.ofNat n)
  | cs => (readDigits 10 cs).map Int.ofNat

/-- A hexadecimal operand as the 16 bits of `IMM16`. DESIGN CHOICE (log 10): R88 gives the form and not the reading. -/
def hexImm (cs : List Char) : Option Half :=
  match readHex cs with
  | some n => if n < 65536 then some (BitVec.ofNat 16 n) else none
  | none => none

/-- An operand of format `D`: `+1` or `-1` (R88). -/
def asmDir (cs : List Char) (f : Dir → Instr) : Option Instr :=
  match hexImm cs with
  | some imm => (readDir imm f).toOption
  | none =>
    if cs = ['+', '1'] then some (f .plus) else if cs = ['-', '1'] then some (f .minus) else none

/-- An operand of format `S`: a signed decimal integer in −32768..32767 (R88). -/
def asmDelta (cs : List Char) (f : Int → Instr) : Option Instr :=
  match hexImm cs with
  | some imm => some (f imm.toInt)
  | none =>
    match readSigned cs with
    | some v => if DeltaInRange v then some (f v) else none
    | none => none

/-- An operand of format `U`: an unsigned decimal integer in 0..65535 (R88). -/
def asmMs (cs : List Char) (f : Nat → Instr) : Option Instr :=
  match hexImm cs with
  | some imm => some (f imm.toNat)
  | none =>
    match readDigits 10 cs with
    | some v => if MsInRange v then some (f v) else none
    | none => none

/-- The events written without an operand: formats `Z` and `I` (R84, R88). -/
def plainMnemonics : List (String × Instr) :=
  [("NOP", .nop), ("RESET_WAVEFORM", .resetWaveform), ("RESET_MULTIPLIER", .resetMultiplier),
    ("RESET_DEPTH", .resetDepth), ("RESET_SPEED_ADJUST", .resetSpeedAdjust), ("TAP", .tap),
    ("MODE_HOLD_START", .modeHoldStart), ("MODE_HOLD_END", .modeHoldEnd), ("CLEAR_STATUS", .clearStatus),
    ("SAMPLE_TICK", .sampleTick), ("MS_TICK", .msTick), ("SYNC_RISE", .syncRise), ("SYNC_FALL", .syncFall)]

/-- The pseudo-events written without an operand (R90). -/
def plainPseudos : List (String × Pseudo) :=
  [("WAVE_NEXT", .waveNext), ("WAVE_PREV", .wavePrev), ("MULT_UP", .multUp), ("MULT_DOWN", .multDown),
    ("DEPTH_UP", .depthUp), ("DEPTH_DOWN", .depthDown), ("RESET_SETTINGS", .resetSettings)]

/-- The entry of a table for a token. -/
def findToken {α : Type} : List (String × α) → List Char → Option α
  | [], _ => none
  | (name, x) :: rest, cs => if name.toList = cs then some x else findToken rest cs

/-- One event from its mnemonic and operand tokens (R88). -/
def asmEvent : List (List Char) → Option Instr
  | [m] => findToken plainMnemonics m
  | [m, op] =>
    if m = "SET_WAVEFORM".toList then asmDir op .setWaveform
    else if m = "SET_MULTIPLIER".toList then asmDir op .setMultiplier
    else if m = "SET_DEPTH".toList then asmDir op .setDepth
    else if m = "ADJUST_SPEED".toList then asmDelta op .adjustSpeed
    else if m = "SET_BASE_TEMPO".toList then asmMs op .setBaseTempo
    else none
  | _ => none

/-- A pseudo-event from its tokens (R90). DESIGN CHOICE (log 21), safe: the count `n` is unsigned decimal. -/
def asmPseudo : List (List Char) → Option Pseudo
  | [m] => findToken plainPseudos m
  | [m, n] =>
    if m = "SAMPLES".toList then (readDigits 10 n).map .samples
    else if m = "MS".toList then (readDigits 10 n).map .ms
    else none
  | _ => none

/-- An event or a pseudo-event as trace items. -/
def asmItems (ts : List (List Char)) : Option (List TraceItem) :=
  match asmEvent ts with
  | some i => some [.event i]
  | none => (asmPseudo ts).map (fun p => p.expand.map .event)

/-- The directives `.repeat N <event>` and `.word <hex>` (R89), an event line (R88) or a pseudo-event (R90).
DESIGN CHOICE (log 21), safe: the count `N` is unsigned decimal. -/
def asmTokens : List (List Char) → Option (List TraceItem)
  | [] => some []
  | t :: ts =>
    if t = ".repeat".toList then
      match ts with
      | n :: ev =>
        match readDigits 10 n, asmEvent ev with
        | some k, some i => some (List.replicate k (.event i))
        | _, _ => none
      | [] => none
    else if t = ".word".toList then
      match ts with
      | [h] =>
        match readHex h with
        | some n => if n < 2 ^ 32 then some [.word (BitVec.ofNat 32 n)] else none
        | none => none
      | _ => none
    else asmItems (t :: ts)

/-- One line of assembler text: what its events are, or none when it is no line of the syntax (R88 to R90). -/
def asmLine (line : List Char) : Option (List TraceItem) := asmTokens (tokensFrom (dropComment line) [])

end Sys2Proof.Machine
end

