-- ==== Sys2Proof/Safety.lean ====
section
/-! DEFINITION. The terms the statements use: the invariant of spec/10_state.md R47 (with R23, R25, R38, R44 and R48),
runs of several cycles, and what two states must share when only the readback address differs. -/

namespace Sys2Proof.Machine

/-- What every state reached from reset satisfies (R47, and the legal values of R23, R25, R38, R44 and R48). -/
structure Inv (s : State) : Prop where
  /-- The parameters meet R8. -/
  params : s.par.Ok
  /-- R47 item 1. -/
  baseTempo : s.par.lfoMaxTempo < s.tempo.baseTempo.toNat ∧ s.tempo.baseTempo.toNat < s.par.lfoMinTempo
  /-- R23. -/
  effective :
    (s.par.lfoMaxTempo : Int) ≤ effectiveTempo s.tempo ∧ effectiveTempo s.tempo ≤ (s.par.lfoMinTempo : Int)
  /-- R25. -/
  baseDuty : s.tempo.baseDutyCycle.toNat = duty s.par (effectiveTempo s.tempo).toNat
  /-- R47 item 2. -/
  workingDuty :
    s.tempo.workingDutyCycle.toNat =
      (s.tempo.baseDutyCycle.toNat * ratioNum s.tempo.multiplier) / ratioDen s.tempo.multiplier
  /-- R47 item 3. -/
  alignIndex : s.tempo.multiplierAlignmentIndex.toNat ≤ 12
  /-- R38. -/
  depthRatio : s.wave.depthRatio.toNat ≤ 100 ∧ s.wave.depthRatio.toNat % 5 = 0
  /-- R47 item 4. -/
  table : s.wave.depthTable = builtTable s.par.sineQ s.wave.waveform s.wave.depthRatio.toNat
  /-- R47 item 6. -/
  random : s.phase.randomNumber.toNat % 32 = 0
  /-- R47 item 7. -/
  tempoCount : s.counters.tempoMsCount.toNat ≤ s.par.lfoMinTempo + 1
  /-- R201: a count above `LFO_MIN_TEMPO` has timed out. -/
  countingCount : s.flags.isCountingTempo = true → s.counters.tempoMsCount.toNat ≤ s.par.lfoMinTempo
  /-- R44. -/
  modeCount : s.counters.modeResetMsCount.toNat < s.par.modeResetMinTime
  /-- R47 item 8. -/
  modeFlags : s.flags.isResettingMode = true → s.flags.isCountingModeResetTime = false
  /-- R47 item 9. -/
  seedFlags : s.flags.hasRandomSeed = true → s.flags.hasReceivedTapInput = true
  /-- R48. -/
  msCounter : s.timing.msCounter.toNat < s.par.msDiv

/-- `n` clock cycles. -/
def runCycles : Nat → State → Host.Outcome State Fault Refusal
  | 0, s => .next s
  | n + 1, s => andThen (step s) (runCycles n)

/-- The input pins of the `k`-th cycle from now. -/
def pinsAt (s : State) (k : Nat) : Inputs := s.inputs.getD k Inputs.idle

/-- No reset in the next `n` cycles. -/
def NoReset (s : State) (n : Nat) : Prop := ∀ k, k < n → (pinsAt s k).rst = false

/-- A state with everything the readback address can touch blanked: the addresses to come and the word read. -/
def blankReads (s : State) : State :=
  { s with
    inputs := s.inputs.map (fun p => { p with rdAddr := 0 })
    out := { s.out with rdData := 0 } }

/-- A table memory read as a table of 256 numbers. -/
def tableNat (m : Memory) (i : Nat) : Nat := (readEntry m i).toNat

/-- `T[j] <- v` on a table held as a function. -/
def assign (t : Nat → Nat) (j v : Nat) : Nat → Nat := fun k => if k = j then v else t k

/-- The four assignments of R103 for one `i`, in the rule's order. -/
def sineAssignments (q : List Byte) (t : Nat → Nat) (i : Nat) : Nat → Nat :=
  let t := assign t i (sineEntry q i)
  let t := assign t (255 - i) (t i)
  let t := assign t (127 - i) (255 - sineEntry q i)
  assign t (128 + i) (t (127 - i))

/-- An event run when its signal is set, after what came before it in the cycle (R230). -/
def runIf (signal : Bool) (i : Instr) (o : Host.Outcome State Fault Refusal) : Host.Outcome State Fault Refusal :=
  if signal then andThen o (exec i) else o

/-- The command part of a cycle (R230): nothing, `IllegalEvent()`, or the decoded event. -/
def runCommand (inp : Inputs) (o : Host.Outcome State Fault Refusal) : Host.Outcome State Fault Refusal :=
  if inp.cmdValid then
    match decode .ext inp.cmdWord with
    | .ok i => andThen o (exec i)
    | .error _ => andThen o (fun s => .next { s with flags := { s.flags with ill := true } })
  else o

/-- `DUTY(T)` written out (R150). -/
def dutyFormula (p : Params) (t : Nat) : Nat := (1000 * 2 ^ 32) / (t * (p.fClk / 256))

/-- The tempo model with a base tempo of `ms`, no trim, and the increments of R152 for it. -/
def committedTempo (p : Params) (ms : Nat) (t : Tempo) : Tempo :=
  { t with
    baseTempo := BitVec.ofNat 16 ms
    tempoAdjustOffset := 0
    baseDutyCycle := BitVec.ofNat 32 (dutyFormula p ms)
    workingDutyCycle := BitVec.ofNat 32 (dutyFormula p ms * ratioNum t.multiplier / ratioDen t.multiplier) }

/-- When `SetBaseTempo` commits (R154): strictly in range and more than 2 ms away. -/
abbrev Commits (p : Params) (base : Half) (ms : Nat) : Prop :=
  p.lfoMaxTempo < ms ∧ ms < p.lfoMinTempo ∧ 2 < ((ms : Int) - (base.toNat : Int)).natAbs

/-- What `StartTempoCount` leaves, element by element (R180, R181). -/
def startedState (s : State) : State :=
  { s with
    phase := { s.phase with basePhaseAccumulator := 0, workingPhaseAccumulator := 0 }
    tempo := { s.tempo with multiplierAlignmentIndex := 0 }
    flags := { s.flags with isCountingTempo := true }
    counters := { s.counters with tempoMsCount := 0 } }

/-- When `StopTempoCount` seeds the generator (R183). -/
abbrev SeedsNow (f : Flags) : Prop := f.hasReceivedTapInput = false ∧ f.hasRandomSeed = false

/-- What `StopTempoCount` leaves, element by element (R180, R182, R183, R154). -/
def stoppedState (s : State) : State :=
  let aligned : Tempo := { s.tempo with multiplierAlignmentIndex := 0 }
  { s with
    phase := { s.phase with
      basePhaseAccumulator := 0
      workingPhaseAccumulator := 0
      rngState := if SeedsNow s.flags then Config.rngSeed s.counters.tempoMsCount else s.phase.rngState }
    flags := { s.flags with
      isCountingTempo := false
      hasReceivedTapInput := true
      hasRandomSeed := if SeedsNow s.flags then true else s.flags.hasRandomSeed }
    tempo :=
      if Commits s.par s.tempo.baseTempo s.counters.tempoMsCount.toNat then
        committedTempo s.par s.counters.tempoMsCount.toNat aligned
      else aligned }

/-- The events that rebuild the depth table (R115). -/
def rebuilds : Instr → Bool
  | .setWaveform _ => true
  | .resetWaveform => true
  | .setDepth _ => true
  | .resetDepth => true
  | .nop => false
  | .setMultiplier _ => false
  | .resetMultiplier => false
  | .adjustSpeed _ => false
  | .resetSpeedAdjust => false
  | .setBaseTempo _ => false
  | .tap => false
  | .modeHoldStart => false
  | .modeHoldEnd => false
  | .clearStatus => false
  | .sampleTick => false
  | .msTick => false
  | .syncRise => false
  | .syncFall => false

end Sys2Proof.Machine
end

