-- ==== Sys2Proof/Certificates/Slice0/Obligations.lean ====
section
/-! DEFINITION. The statements for the provers, family by family. `Sys2Proof/Safety.lean` holds their terms. -/

open Sys2Proof Sys2Proof.Machine

/-! ### Encoding -/

/-- Decoding the word of a well-formed event gives the event back, from the source the event has and from inside the
block; a word of the block's own events is illegal on the command port (R83 to R86). -/
def Obligations.DecodeOfEncodeGivesTheEvent : Prop :=
  ∀ i : Instr, i.wellFormed = true →
    decode i.source (encode i) = .ok i ∧
    decode .int (encode i) = .ok i ∧
    (i.source = .int → decode .ext (encode i) = .error .internalOpcode)

/-- Each legal word has one meaning: an event a word decodes to is well formed, is encoded by that word, and comes from
the command port if the word did (R84, R85). -/
def Obligations.EncodeOfDecodedEventIsTheWord : Prop :=
  ∀ (src : Source) (w : Word) (i : Instr), decode src w = .ok i →
    i.wellFormed = true ∧ encode i = w ∧ (src = .ext → i.source = .ext)

/-- Which words are illegal, what an illegal word on the command port does, and that only the word 0 is a `NOP`
(R86). -/
def Obligations.IllegalWordsAreExactlyTheListed : Prop :=
  ∀ w : Word,
    let opc := w.toNat / 2 ^ 24
    let rsv := w.toNat / 2 ^ 16 % 2 ^ 8
    let imm := w.toNat % 2 ^ 16
    let unknown := (0x0E ≤ opc ∧ opc ≤ 0x7F) ∨ 0x84 ≤ opc
    let badD := opc ∈ [0x01, 0x03, 0x05] ∧ imm ≠ 0x0001 ∧ imm ≠ 0xFFFF
    let badZ := opc ∈ [0x00, 0x02, 0x04, 0x06, 0x08, 0x0A, 0x0B, 0x0C, 0x0D] ∧ imm ≠ 0
    let badI := (0x80 ≤ opc ∧ opc ≤ 0x83) ∧ imm ≠ 0
    ((∃ r, decode .ext w = .error r) ↔ rsv ≠ 0 ∨ unknown ∨ (0x80 ≤ opc ∧ opc ≤ 0x83) ∨ badD ∨ badZ) ∧
    ((∃ r, decode .int w = .error r) ↔ rsv ≠ 0 ∨ unknown ∨ badD ∨ badZ ∨ badI) ∧
    (∀ r s, decode .ext w = .error r →
      applyWord (.ext, w) s = .next { s with flags := { s.flags with ill := true } }) ∧
    (decode .ext w = .ok .nop → w = 0)

/-- The words of the opcode map decode to their events, each from its own source (R84). -/
def Obligations.OpcodeMapWordsDecode : Prop :=
  decode .ext 0x00000000#32 = .ok .nop ∧
  decode .ext 0x01000001#32 = .ok (.setWaveform .plus) ∧ decode .ext 0x0100FFFF#32 = .ok (.setWaveform .minus) ∧
  decode .ext 0x02000000#32 = .ok .resetWaveform ∧
  decode .ext 0x03000001#32 = .ok (.setMultiplier .plus) ∧ decode .ext 0x0300FFFF#32 = .ok (.setMultiplier .minus) ∧
  decode .ext 0x04000000#32 = .ok .resetMultiplier ∧
  decode .ext 0x05000001#32 = .ok (.setDepth .plus) ∧ decode .ext 0x0500FFFF#32 = .ok (.setDepth .minus) ∧
  decode .ext 0x06000000#32 = .ok .resetDepth ∧
  (∀ imm : Half, decode .ext (BitVec.ofNat 32 (0x07000000 + imm.toNat)) = .ok (.adjustSpeed imm.toInt)) ∧
  decode .ext 0x08000000#32 = .ok .resetSpeedAdjust ∧
  (∀ imm : Half, decode .ext (BitVec.ofNat 32 (0x09000000 + imm.toNat)) = .ok (.setBaseTempo imm.toNat)) ∧
  decode .ext 0x0A000000#32 = .ok .tap ∧
  decode .ext 0x0B000000#32 = .ok .modeHoldStart ∧
  decode .ext 0x0C000000#32 = .ok .modeHoldEnd ∧
  decode .ext 0x0D000000#32 = .ok .clearStatus ∧
  decode .int 0x80000000#32 = .ok .sampleTick ∧
  decode .int 0x81000000#32 = .ok .msTick ∧
  decode .int 0x82000000#32 = .ok .syncRise ∧
  decode .int 0x83000000#32 = .ok .syncFall ∧
  (∀ w ∈ [0x80000000#32, 0x81000000#32, 0x82000000#32, 0x83000000#32], decode .ext w = .error .internalOpcode)

/-! ### Cycles -/

/-- A step runs the decoded command: in a cycle with a legal command and no tick or edge due, the step is `exec` of the
event, between the driving of the output ports and the update of the timing registers. -/
def Obligations.StepRunsTheDecodedCommand : Prop :=
  ∀ (s : State) (inp : Inputs) (rest : List Inputs) (i : Instr),
    s.inputs = inp :: rest → inp.rst = false → inp.cmdValid = true → decode .ext inp.cmdWord = .ok i →
    s.timing.pwmCounter ≠ 255 → s.timing.msCounter.toNat % 2 ^ msWidth s.par ≠ s.par.msDiv - 1 →
    (s.timing.syncArm ≠ 3 ∨ s.timing.sync2 = s.timing.sync3) →
    step s =
      andThen (exec i (openCycle inp { s with inputs := rest })) (fun t => .next (closeCycle inp t))

/-- The cycle step: the signals are those of the start of the cycle, the events come in the fixed order, and the timing
registers are updated last (R230). -/
def Obligations.CycleAppliesEventsInFixedOrder : Prop :=
  ∀ (s : State) (inp : Inputs) (rest : List Inputs), s.inputs = inp :: rest → inp.rst = false →
    let T := s.timing
    let ms := T.msCounter.toNat % 2 ^ msWidth s.par
    let start := openCycle inp { s with inputs := rest }
    let afterSample := runIf (decide (T.pwmCounter = 255)) .sampleTick (.next start)
    let afterMs := runIf (decide (ms = s.par.msDiv - 1)) .msTick afterSample
    let afterRise := runIf (decide (T.syncArm = 3 ∧ T.sync2 = true ∧ T.sync3 = false)) .syncRise afterMs
    let afterFall := runIf (decide (T.syncArm = 3 ∧ T.sync2 = false ∧ T.sync3 = true)) .syncFall afterRise
    step s =
      andThen (runCommand inp afterFall) (fun t =>
        .next { t with timing :=
          { pwmCounter := BitVec.ofNat 8 ((T.pwmCounter.toNat + 1) % 256)
            pwmActive := if T.pwmCounter = 255 then t.phase.pwmDuty else T.pwmActive
            msCounter := BitVec.ofNat 32 (if ms = s.par.msDiv - 1 then 0 else (ms + 1) % 2 ^ msWidth s.par)
            sync3 := T.sync2
            sync2 := T.sync1
            sync1 := inp.syncIn
            syncArm := if T.syncArm.toNat < 3 then T.syncArm + 1 else T.syncArm } })

/-- From reset, a step with the word of any well-formed event placed runs that event, and no other: the model's own
`withFetchWord` (log 2). -/
def Obligations.PlacedWordIsTheFirstEventRun : Prop :=
  ∀ i : Instr, i.wellFormed = true →
    let p := State.reset.withFetchWord 32 (encode i).toNat
    step p =
      andThen (exec i (openCycle (nextInputs p) (dropInputs p))) (fun t => .next (closeCycle (nextInputs p) t))

/-- No event raises an exception, and no cycle stops (R250). -/
def Obligations.EveryEventAndCycleGoesOn : Prop :=
  (∀ (i : Instr) (s : State), ∃ t, exec i s = .next t) ∧ ∀ s : State, ∃ t, step s = .next t

/-- No event writes a timing register, a parameter or the pins to come (R48). -/
def Obligations.EventsKeepTimingRegisters : Prop :=
  ∀ (i : Instr) (s t : State), exec i s = .next t → t.timing = s.timing ∧ t.par = s.par ∧ t.inputs = s.inputs

/-- The output ports of a cycle: readback, PWM and tempo output from the registers at its start, the two pulses from
the millisecond tick of the cycle (R62, R222, R231, R232). -/
def Obligations.OutputPortsOfACycle : Prop :=
  ∀ (s : State) (inp : Inputs) (rest : List Inputs), s.inputs = inp :: rest → inp.rst = false →
    ∃ t, step s = .next t ∧
      t.out =
        { rdData := readback s inp.rdAddr
          pwmOut := decide (s.timing.pwmCounter.toNat < s.timing.pwmActive.toNat)
          tempoOut := s.phase.tempoIndicator
          debounceReq := decide (s.timing.msCounter.toNat % 2 ^ msWidth s.par = s.par.msDiv - 1)
          modeResetReq :=
            decide (s.timing.msCounter.toNat % 2 ^ msWidth s.par = s.par.msDiv - 1 ∧
              s.flags.isCountingModeResetTime = true ∧
              s.par.modeResetMinTime ≤ (s.counters.modeResetMsCount + 1).toNat) }

/-- The readback address has no effect on anything but the word read (R66): two states that differ in nothing else
step to two states that differ in nothing else. -/
def Obligations.ReadbackHasNoSideEffect : Prop :=
  ∀ s t s' : State, blankReads s = blankReads t → step s = .next s' →
    ∃ t', step t = .next t' ∧ blankReads s' = blankReads t'

/-- After `n` cycles without reset the PWM counter and the millisecond prescaler have advanced by `n`; counted from 0,
a sample tick is due in the cycles `256k + 255` and a millisecond tick in the cycles `MS_DIV·k + MS_DIV − 1` (R221,
R225, R226). -/
def Obligations.TickCyclesArePeriodic : Prop :=
  ∀ (s : State) (n : Nat), s.par.Ok → s.timing.msCounter.toNat < s.par.msDiv → NoReset s n →
    ∃ t, runCycles n s = .next t ∧ t.par = s.par ∧
      t.timing.pwmCounter.toNat = (s.timing.pwmCounter.toNat + n) % 256 ∧
      t.timing.msCounter.toNat = (s.timing.msCounter.toNat + n) % s.par.msDiv ∧
      (s.timing.pwmCounter = 0 → (sampleTickDue t = true ↔ n % 256 = 255)) ∧
      (s.timing.msCounter = 0 → (msTickDue t = true ↔ n % s.par.msDiv = s.par.msDiv - 1))

/-- Over one PWM period `pwm_out` is 1 for the first `PwmActive` cycles and 0 for the others; `PwmActive` is constant
through the period and is loaded from `PwmDuty` at its end (R221, R222). -/
def Obligations.PwmPeriodIsHighForPwmActiveCycles : Prop :=
  ∀ (s : State) (n : Nat), s.timing.pwmCounter = 0 → n < 256 → NoReset s (n + 1) →
    ∃ t, runCycles (n + 1) s = .next t ∧
      t.out.pwmOut = decide (n < s.timing.pwmActive.toNat) ∧
      t.timing.pwmActive = if n = 255 then t.phase.pwmDuty else s.timing.pwmActive

/-- Edge timing after reset, for the samples `x_k` of `sync_in`: after `c` cycles the flops hold `x_(c−1)`, `x_(c−2)`
and `x_(c−3)`, and a cycle has a rise or a fall just when the last two of them differ that way (R229). -/
def Obligations.SyncEdgesFollowTheSamples : Prop :=
  ∀ (s : State) (c : Nat), s.timing.syncArm = 0 → NoReset s c →
    let x := fun k => (pinsAt s k).syncIn
    ∃ t, runCycles c s = .next t ∧
      t.timing.syncArm.toNat = min c 3 ∧
      (2 ≤ c → t.timing.sync2 = x (c - 2)) ∧
      (3 ≤ c → t.timing.sync3 = x (c - 3)) ∧
      (syncRiseDue t = true ↔ 3 ≤ c ∧ x (c - 3) = false ∧ x (c - 2) = true) ∧
      (syncFallDue t = true ↔ 3 ≤ c ∧ x (c - 3) = true ∧ x (c - 2) = false)

/-- The readback map (R46). -/
def Obligations.ReadbackMapHoldsEveryElement : Prop :=
  ∀ s : State,
    (∀ k, k < 32 → (readback s 0x000).getLsbD k =
      ((k == 0 && s.flags.isCountingTempo) || (k == 1 && s.flags.hasReceivedTapInput) ||
        (k == 2 && s.flags.hasRandomSeed) || (k == 3 && s.flags.isCountingModeResetTime) ||
        (k == 4 && s.flags.isResettingMode) || (k == 8 && s.flags.ill) || (k == 9 && s.phase.tempoIndicator))) ∧
    (readback s 0x001).toNat = s.tempo.baseTempo.toNat ∧
    (readback s 0x002).toInt = s.tempo.tempoAdjustOffset.toInt ∧
    (0 ≤ effectiveTempo s.tempo → effectiveTempo s.tempo < 65536 →
      ((readback s 0x003).toNat : Int) = effectiveTempo s.tempo) ∧
    (readback s 0x004).toNat = waveformCode s.wave.waveform ∧
    (readback s 0x005).toNat = multiplierCode s.tempo.multiplier ∧
    (readback s 0x006).toNat = s.wave.depthRatio.toNat ∧
    (readback s 0x007).toNat = (255 * (100 - s.wave.depthRatio.toNat)) / 100 ∧
    readback s 0x008 = s.tempo.baseDutyCycle ∧
    readback s 0x009 = s.tempo.workingDutyCycle ∧
    readback s 0x00A = s.phase.basePhaseAccumulator ∧
    readback s 0x00B = s.phase.workingPhaseAccumulator ∧
    (readback s 0x00C).toNat = s.phase.baseTableIndex.toNat + 2 ^ 8 * s.phase.workingTableIndex.toNat ∧
    (readback s 0x00D).toNat = s.tempo.multiplierAlignmentIndex.toNat ∧
    (readback s 0x00E).toNat = s.phase.randomNumber.toNat ∧
    (readback s 0x00F).toNat = s.phase.pwmDuty.toNat + 2 ^ 8 * s.timing.pwmActive.toNat ∧
    (readback s 0x010).toNat = s.counters.tempoMsCount.toNat ∧
    (readback s 0x011).toNat = s.counters.modeResetMsCount.toNat ∧
    (readback s 0x012).toNat = s.counters.speedAdjustMsCount.toNat ∧
    (readback s 0x013).toNat = s.timing.pwmCounter.toNat ∧
    readback s 0x014 = BitVec.ofNat 32 (s.timing.msCounter.toNat % 2 ^ msWidth s.par) ∧
    (∀ k, k < 32 → (readback s 0x015).getLsbD k =
      ((k == 0 && s.timing.sync1) || (k == 1 && s.timing.sync2) || (k == 2 && s.timing.sync3) ||
        (k == 4 && s.timing.syncArm.getLsbD 0) || (k == 5 && s.timing.syncArm.getLsbD 1))) ∧
    (∀ a : BitVec 9, 0x016 ≤ a.toNat → a.toNat ≤ 0x0FF → readback s a = 0) ∧
    (∀ a : BitVec 9, 0x100 ≤ a.toNat →
      (readback s a).toNat = (tableRead s.wave.depthTable (BitVec.ofNat 8 (a.toNat - 0x100))).toNat)

/-! ### Reset -/

/-- The reset value of every state element (R282). -/
def Obligations.ResetValuesOfEveryElement : Prop :=
  let s := State.reset
  s.tempo.baseTempo = 1000 ∧ s.tempo.tempoAdjustOffset = 0 ∧
  s.tempo.baseDutyCycle.toNat = dutyFormula Config.defaults 1000 ∧ s.tempo.baseDutyCycle.toNat = 137438 ∧
  s.tempo.workingDutyCycle = 137438 ∧ s.tempo.multiplier = .quarter ∧ s.tempo.multiplierAlignmentIndex = 0 ∧
  s.phase.basePhaseAccumulator = 0 ∧ s.phase.workingPhaseAccumulator = 0 ∧
  s.phase.baseTableIndex = 0 ∧ s.phase.workingTableIndex = 0 ∧
  s.phase.randomNumber = 0 ∧ s.phase.rngState = Config.rngInit ∧ s.phase.pwmDuty = 0 ∧
  s.phase.tempoIndicator = false ∧
  s.wave.waveform = .sine ∧ s.wave.depthRatio = 100 ∧ depthOffset s.wave.depthRatio.toNat = 0 ∧
  (∀ i : Byte, (tableRead s.wave.depthTable i).toNat = shape Config.defaultSineQ .sine i.toNat) ∧
  s.flags = ⟨false, false, false, false, false, false⟩ ∧ s.counters = ⟨0, 0, 0⟩ ∧
  s.timing = ⟨0, 0, 0, false, false, false, 0⟩

/-- A cycle with `rst = 1`, from any state and whatever the command port holds: no event, no pulse, the other output
ports as in any cycle, and every register at its reset value; a second such cycle changes nothing more (R280). -/
def Obligations.ResetCycleSetsEveryRegister : Prop :=
  ∀ (s : State) (inp : Inputs) (rest : List Inputs), s.inputs = inp :: rest → inp.rst = true →
    ∃ t, step s = .next t ∧
      t =
        { State.reset with
          par := s.par
          tempo := { State.reset.tempo with
            baseTempo := BitVec.ofNat 16 s.par.defaultTempo
            baseDutyCycle := BitVec.ofNat 32 (dutyFormula s.par s.par.defaultTempo)
            workingDutyCycle := BitVec.ofNat 32 (dutyFormula s.par s.par.defaultTempo) }
          wave := { State.reset.wave with depthTable := t.wave.depthTable }
          inputs := rest
          out :=
            { rdData := readback s inp.rdAddr
              pwmOut := decide (s.timing.pwmCounter.toNat < s.timing.pwmActive.toNat)
              tempoOut := s.phase.tempoIndicator
              debounceReq := false
              modeResetReq := false } } ∧
      (∀ i : Byte, (tableRead t.wave.depthTable i).toNat = shape s.par.sineQ .sine i.toNat) ∧
      (s.par = Config.defaults → t = { State.reset with inputs := rest, out := t.out }) ∧
      (∀ inp' rest', rest = inp' :: rest' → inp'.rst = true →
        ∃ u, step t = .next u ∧ u = { t with inputs := rest', out := u.out })

/-- The state right after reset satisfies the invariant (R47, R282). -/
def Obligations.InvHoldsAtReset : Prop := Inv State.reset

/-- A reset cycle establishes the invariant from any state whose parameters are legal, whatever its registers hold
(R281). -/
def Obligations.ResetCycleEstablishesInv : Prop :=
  ∀ (s t : State) (inp : Inputs) (rest : List Inputs), s.par.Ok → s.inputs = inp :: rest → inp.rst = true →
    step s = .next t → Inv t

/-! ### Invariants -/

/-- Every clock cycle keeps the invariant, whatever its input pins. -/
def Obligations.EveryStepKeepsInv : Prop := ∀ s t : State, Inv s → step s = .next t → Inv t

/-- Every sequence of events, illegal words among them, keeps the invariant. -/
def Obligations.EveryTraceKeepsInv : Prop :=
  ∀ (xs : List TraceItem) (s t : State), Inv s → runTrace xs s = .next t → Inv t

/-- Every state reached from reset by any sequence of events satisfies the nine clauses of R47, for any legal
parameters: reset is the state `State.reset`, or what a cycle with `rst = 1` leaves. -/
def Obligations.ReachedStatesSatisfyTheNineClauses : Prop :=
  ∀ (r t : State) (xs : List TraceItem),
    (r = State.reset ∨ ∃ s : State, s.par.Ok ∧ (nextInputs s).rst = true ∧ step s = .next r) →
    runTrace xs r = .next t →
    (r.par.lfoMaxTempo < t.tempo.baseTempo.toNat ∧ t.tempo.baseTempo.toNat < r.par.lfoMinTempo) ∧
    t.tempo.workingDutyCycle.toNat =
      (t.tempo.baseDutyCycle.toNat * ratioNum t.tempo.multiplier) / ratioDen t.tempo.multiplier ∧
    t.tempo.multiplierAlignmentIndex.toNat ≤ 12 ∧
    (∀ i : Byte, tableRead t.wave.depthTable i =
      BitVec.ofNat 8
        (calcSignalDepth (shape r.par.sineQ t.wave.waveform i.toNat) t.wave.depthRatio.toNat)) ∧
    (∀ i : Byte, depthOffset t.wave.depthRatio.toNat ≤ (tableRead t.wave.depthTable i).toNat) ∧
    t.phase.randomNumber.toNat % 32 = 0 ∧
    t.counters.tempoMsCount.toNat ≤ r.par.lfoMinTempo + 1 ∧
    (t.flags.isResettingMode = true → t.flags.isCountingModeResetTime = false) ∧
    (t.flags.hasRandomSeed = true → t.flags.hasReceivedTapInput = true)

/-! ### The table memory -/

/-- Two canonical table memories that read the same are the same data: a property of the model's own form of the table
(log 9). -/
def Obligations.CanonicalMemoriesReadingEqualAreEqual : Prop :=
  ∀ m n : Memory, memoryWf m → memoryWf n → (∀ i, i < 256 → readEntry m i = readEntry n i) → m = n

/-- `BuildTable()` is the loop of 256 writes of R110, and it writes nothing else; what it gives does not depend on
what the table held. -/
def Obligations.BuildTableIsTheLoopOfWrites : Prop :=
  ∀ s : State, memoryWf s.wave.depthTable →
    buildTable s =
      { s with wave := { s.wave with
          depthTable :=
            (List.range 256).foldl
              (fun m i => writeEntry m i
                (BitVec.ofNat 8 (calcSignalDepth (shape s.par.sineQ s.wave.waveform i) s.wave.depthRatio.toNat)))
              s.wave.depthTable } }

/-! ### Waveforms and depth -/

/-- The shapes of RampUp, Random, RampDown, Triangle, Square and QuadPulse (R101, R102, R105, R106, R107). -/
def Obligations.ShapesOfTheSimpleWaveforms : Prop :=
  ∀ (q : List Byte) (i : Nat), i < 256 →
    shape q .rampUp i = i ∧ shape q .random i = i ∧
    shape q .rampDown i = 255 - i ∧
    (i ≤ 127 → shape q .triangle i = 2 * i) ∧ shape q .triangle (255 - i) = shape q .triangle i ∧
    shape q .square i = (if i < 128 then 0 else 255) ∧
    (shape q .quadPulse i = 255 ↔
      i < 0x10 ∨ (0x20 ≤ i ∧ i < 0x30) ∨ (0x40 ≤ i ∧ i < 0x50) ∨ (0x60 ≤ i ∧ i < 0x70)) ∧
    (shape q .quadPulse i = 255 ↔ i.testBit 7 = false ∧ i.testBit 4 = false) ∧
    (shape q .quadPulse i ≠ 255 → shape q .quadPulse i = 0)

/-- The sine table is what the four assignments of R103 build, whatever the table held, and has the rule's closed
form. -/
def Obligations.SineTableIsBuiltByTheAssignments : Prop :=
  ∀ (q : List Byte) (t : Nat → Nat),
    (∀ i, i < 256 → (List.range 64).foldl (sineAssignments q) t i = shape q .sine i) ∧
    (∀ j, j < 64 →
      shape q .sine j = sineEntry q j ∧ shape q .sine (64 + j) = 255 - sineEntry q (63 - j) ∧
      shape q .sine (128 + j) = 255 - sineEntry q j ∧ shape q .sine (192 + j) = sineEntry q (63 - j))

/-- Depth scaling stays in `DepthOffset(r)..255` and is non-decreasing (R109). -/
def Obligations.DepthScalingIsBoundedAndMonotone : Prop :=
  ∀ v w r : Nat, v ≤ 255 → w ≤ 255 → r ≤ 100 →
    depthOffset r ≤ calcSignalDepth v r ∧ calcSignalDepth v r ≤ 255 ∧
    (v ≤ w → calcSignalDepth v r ≤ calcSignalDepth w r) ∧
    (255 * (100 - r)) / 100 + (255 * r) / 100 ≤ 255

/-- `SET_WAVEFORM` (R111): the waveform steps modulo 7, the whole table is rebuilt, and nothing else changes; an
`IMM16` other than the two is illegal. -/
def Obligations.SetWaveformStepsAndRebuilds : Prop :=
  (decode .ext 0x01000001#32 = .ok (.setWaveform .plus) ∧ decode .ext 0x0100FFFF#32 = .ok (.setWaveform .minus) ∧
    ∀ imm : Half, imm ≠ 0x0001#16 → imm ≠ 0xFFFF#16 → ∃ r, decode .ext (eventWord 0x01#8 imm) = .error r) ∧
  ∀ (dir : Dir) (s : State), ∃ t, exec (.setWaveform dir) s = .next t ∧
    (waveformCode t.wave.waveform : Int) = ((waveformCode s.wave.waveform : Int) + dirValue dir) % 7 ∧
    (∀ a : Byte, tableRead t.wave.depthTable a =
      BitVec.ofNat 8 (calcSignalDepth (shape s.par.sineQ t.wave.waveform a.toNat) s.wave.depthRatio.toNat)) ∧
    t = { s with wave := { s.wave with waveform := t.wave.waveform, depthTable := t.wave.depthTable } }

/-- `RESET_WAVEFORM` (R112): Sine, rebuilt always, nothing else. -/
def Obligations.ResetWaveformRestoresSine : Prop :=
  decode .ext 0x02000000#32 = .ok .resetWaveform ∧
  ∀ s : State, ∃ t, exec .resetWaveform s = .next t ∧
    (∀ a : Byte, tableRead t.wave.depthTable a =
      BitVec.ofNat 8 (calcSignalDepth (shape s.par.sineQ .sine a.toNat) s.wave.depthRatio.toNat)) ∧
    t = { s with wave := { s.wave with waveform := .sine, depthTable := t.wave.depthTable } }

/-- `SET_DEPTH` (R113): steps by 5 within 0..100; an unchanged ratio changes nothing at all, a changed one rebuilds
the whole table, and nothing else changes. -/
def Obligations.SetDepthStepsAndRebuildsOnChange : Prop :=
  (decode .ext 0x05000001#32 = .ok (.setDepth .plus) ∧ decode .ext 0x0500FFFF#32 = .ok (.setDepth .minus)) ∧
  ∀ (dir : Dir) (s : State),
    let new : Int := max 0 (min 100 ((s.wave.depthRatio.toNat : Int) + 5 * dirValue dir))
    if new = (s.wave.depthRatio.toNat : Int) then exec (.setDepth dir) s = .next s
    else
      ∃ t, exec (.setDepth dir) s = .next t ∧
        (t.wave.depthRatio.toNat : Int) = new ∧
        (∀ a : Byte, tableRead t.wave.depthTable a =
          BitVec.ofNat 8 (calcSignalDepth (shape s.par.sineQ s.wave.waveform a.toNat) new.toNat)) ∧
        t = { s with wave := { s.wave with depthRatio := t.wave.depthRatio, depthTable := t.wave.depthTable } }

/-- `RESET_DEPTH` (R114): depth 100, rebuilt always (each entry the bare shape), nothing else. -/
def Obligations.ResetDepthRestoresFullDepth : Prop :=
  decode .ext 0x06000000#32 = .ok .resetDepth ∧
  ∀ s : State, ∃ t, exec .resetDepth s = .next t ∧
    (∀ a : Byte, tableRead t.wave.depthTable a =
      BitVec.ofNat 8 (shape s.par.sineQ s.wave.waveform a.toNat)) ∧
    t = { s with wave := { s.wave with depthRatio := 100, depthTable := t.wave.depthTable } }

/-- Only the four events of R115 rebuild the table or write a setting of the builder; every other event leaves the
waveform, the depth ratio and every entry of the table alone. -/
def Obligations.OnlyTheListedEventsTouchTheTable : Prop :=
  ∀ (i : Instr) (s t : State), exec i s = .next t →
    (rebuilds i = false → t.wave = s.wave) ∧
    (rebuilds i = true →
      (t = s ∧ ∃ dir, i = .setDepth dir) ∨
      ∀ a : Byte, tableRead t.wave.depthTable a =
        BitVec.ofNat 8 (calcSignalDepth (shape s.par.sineQ t.wave.waveform a.toNat) t.wave.depthRatio.toNat))

/-- `SET_WAVEFORM +1` then `−1`, or `−1` then `+1`, restores the whole state, the table bit for bit (R119). -/
def Obligations.SetWaveformRoundTripRestoresTheState : Prop :=
  ∀ s : State, Inv s →
    runTrace [.event (.setWaveform .plus), .event (.setWaveform .minus)] s = .next s ∧
    runTrace [.event (.setWaveform .minus), .event (.setWaveform .plus)] s = .next s

/-- `k` × `SET_DEPTH +1` then `k` × `SET_DEPTH −1` restores the whole state when no step is clamped; from 100, one of
each gives 95 (R119, `90_conflicts.md` C10). -/
def Obligations.SetDepthRoundTripWithoutClamping : Prop :=
  ∀ (s : State) (k : Nat), Inv s →
    (s.wave.depthRatio.toNat + 5 * k ≤ 100 →
      runTrace (List.replicate k (.event (.setDepth .plus)) ++ List.replicate k (.event (.setDepth .minus))) s =
        .next s) ∧
    (s.wave.depthRatio = 100 →
      ∃ t, runTrace [.event (.setDepth .plus), .event (.setDepth .minus)] s = .next t ∧
        t.wave.depthRatio.toNat = 95)

/-- Symmetry of the sine table at every depth and of any quarter table; the point symmetry is exact at depth 100 and
holds up to rounding at the others; mirror symmetry about 63.5 is false (R117, `90_conflicts.md` C9). -/
def Obligations.SineTableSymmetry : Prop :=
  ∀ (q : List Byte) (r : Nat), r ≤ 100 →
    let S := tableNat (builtTable q .sine r)
    (∀ i, i < 256 → S i = S (255 - i)) ∧
    (∀ i, i < 64 → r = 100 → S i + S (127 - i) = 255 ∧ S (128 + i) + S (255 - i) = 255) ∧
    (r = 100 → S 0 ≠ S 127) ∧
    (∀ i, i < 128 →
      S i + S (127 - i) ≤ 2 * depthOffset r + (255 * r) / 100 ∧
      2 * depthOffset r + (255 * r) / 100 ≤ S i + S (127 - i) + 1)

/-- Monotonicity of RampUp, Triangle and RampDown at every depth (R118). -/
def Obligations.RampAndTriangleAreMonotone : Prop :=
  ∀ (q : List Byte) (r i j : Nat), r ≤ 100 → i ≤ j → j < 256 →
    tableNat (builtTable q .rampUp r) i ≤ tableNat (builtTable q .rampUp r) j ∧
    tableNat (builtTable q .rampDown r) j ≤ tableNat (builtTable q .rampDown r) i ∧
    (j ≤ 127 → tableNat (builtTable q .triangle r) i ≤ tableNat (builtTable q .triangle r) j) ∧
    (128 ≤ i → tableNat (builtTable q .triangle r) j ≤ tableNat (builtTable q .triangle r) i)

/-! ### The phase engine -/

/-- `SAMPLE_TICK` (R131), every element written out: the base step, the boundary with its toggle and alignment before
the working step, the output read before the draw, the draw on a working wrap; nothing else changes. -/
def Obligations.SampleTickAdvancesBothPhases : Prop :=
  (decode .int 0x80000000#32 = .ok .sampleTick ∧ decode .ext 0x80000000#32 = .error .internalOpcode) ∧
  ∀ s : State,
    let P := s.phase
    let b := (P.basePhaseAccumulator.toNat + s.tempo.baseDutyCycle.toNat) % 2 ^ 32
    let bi := b / 2 ^ 24
    let boundary := bi < P.baseTableIndex.toNat
    let mai := s.tempo.multiplierAlignmentIndex.toNat
    let tested := if 12 ≤ mai then 0 else mai
    let w0 := if boundary ∧ tested % align s.tempo.multiplier = 0 then 0 else P.workingPhaseAccumulator.toNat
    let w := (w0 + s.tempo.workingDutyCycle.toNat) % 2 ^ 32
    let wi := w / 2 ^ 24
    let wrap := wi < P.workingTableIndex.toNat
    let draw := Config.rngNext P.rngState
    exec .sampleTick s =
      .next { s with
        tempo := { s.tempo with
          multiplierAlignmentIndex :=
            if boundary then BitVec.ofNat 4 (tested + 1) else s.tempo.multiplierAlignmentIndex }
        phase :=
          { basePhaseAccumulator := BitVec.ofNat 32 b
            baseTableIndex := BitVec.ofNat 8 bi
            tempoIndicator := if boundary then !P.tempoIndicator else P.tempoIndicator
            workingPhaseAccumulator := BitVec.ofNat 32 w
            workingTableIndex := BitVec.ofNat 8 wi
            pwmDuty :=
              tableRead s.wave.depthTable
                (if s.wave.waveform = .random then P.randomNumber else BitVec.ofNat 8 wi)
            randomNumber := if wrap then BitVec.ofNat 8 (32 * draw.1.val) else P.randomNumber
            rngState := if wrap then draw.2 else P.rngState } }

/-- With the index registers in step with their accumulators, a sample tick detects exactly the additions that wrap:
of the base accumulator by the toggle, of the working accumulator (where `AlignWaveform` does not write it) by the fall
of its index; after the tick the indexes are in step again (R140). -/
def Obligations.WrapsAreDetectedExactly : Prop :=
  ∀ s : State, Inv s → s.phase.baseTableIndex = phaseIndex s.phase.basePhaseAccumulator →
    s.phase.workingTableIndex = phaseIndex s.phase.workingPhaseAccumulator →
    s.tempo.baseDutyCycle.toNat ≤ 2 ^ 31 ∧ s.tempo.workingDutyCycle.toNat ≤ 2 ^ 31 ∧
    ∃ t, exec .sampleTick s = .next t ∧
      (t.phase.tempoIndicator ≠ s.phase.tempoIndicator ↔
        2 ^ 32 ≤ s.phase.basePhaseAccumulator.toNat + s.tempo.baseDutyCycle.toNat) ∧
      (s.phase.basePhaseAccumulator.toNat + s.tempo.baseDutyCycle.toNat < 2 ^ 32 ∨
          (alignTested s.tempo.multiplierAlignmentIndex).toNat % align s.tempo.multiplier ≠ 0 →
        (t.phase.workingTableIndex.toNat < s.phase.workingTableIndex.toNat ↔
          2 ^ 32 ≤ s.phase.workingPhaseAccumulator.toNat + s.tempo.workingDutyCycle.toNat)) ∧
      t.phase.baseTableIndex = phaseIndex t.phase.basePhaseAccumulator ∧
      t.phase.workingTableIndex = phaseIndex t.phase.workingPhaseAccumulator

/-- The alignment pattern (R139): from an index of 0, the boundary after `n` others tests `n mod 12`, and it forces the
working accumulator to 0 just when `ALIGN` divides `n`. -/
def Obligations.AlignmentPatternOfBoundaries : Prop :=
  ∀ (s : State) (n : Nat), s.tempo.multiplierAlignmentIndex = 0 →
    let a := fun k => Nat.iterate alignWaveform k s
    (alignTested (a n).tempo.multiplierAlignmentIndex).toNat = n % 12 ∧
    (a (n + 1)).phase.workingPhaseAccumulator =
      if n % align s.tempo.multiplier = 0 then 0 else (a n).phase.workingPhaseAccumulator

/-- A boundary tick that tests a multiple of `ALIGN` (R142): the working accumulator is 0 right after `AlignWaveform`,
and `WorkingDutyCycle` at the end of the tick. -/
def Obligations.AlignedBoundaryRestartsTheWorkingPhase : Prop :=
  (∀ s : State, (alignTested s.tempo.multiplierAlignmentIndex).toNat % align s.tempo.multiplier = 0 →
    (alignWaveform s).phase.workingPhaseAccumulator = 0) ∧
  ∀ s : State,
    (s.phase.basePhaseAccumulator.toNat + s.tempo.baseDutyCycle.toNat) % 2 ^ 32 / 2 ^ 24 <
      s.phase.baseTableIndex.toNat →
    (alignTested s.tempo.multiplierAlignmentIndex).toNat % align s.tempo.multiplier = 0 →
    ∃ t, exec .sampleTick s = .next t ∧ t.phase.workingPhaseAccumulator = s.tempo.workingDutyCycle

/-- The stale-index hazard at the default parameters (R141, R291): the first sample tick after a tap or a sync edge is
a boundary unless `BaseTableIndex` was 0, and a working wrap unless `WorkingTableIndex` was 0. -/
def Obligations.FirstTickAfterResetSignalsSeesStaleIndexes : Prop :=
  ∀ (s : State) (i : Instr), Inv s → s.par = Config.defaults → i ∈ [.tap, .syncRise, .syncFall] →
    ∃ t u, exec i s = .next t ∧ exec .sampleTick t = .next u ∧
      (0 < s.phase.baseTableIndex.toNat →
        u.phase.tempoIndicator = !s.phase.tempoIndicator ∧ u.tempo.multiplierAlignmentIndex = 1 ∧
          u.phase.workingPhaseAccumulator = t.tempo.workingDutyCycle) ∧
      (s.phase.baseTableIndex = 0 →
        u.phase.tempoIndicator = s.phase.tempoIndicator ∧ u.tempo.multiplierAlignmentIndex = 0) ∧
      (0 < s.phase.workingTableIndex.toNat →
        u.phase.randomNumber = BitVec.ofNat 8 (32 * (Config.rngNext t.phase.rngState).1.val) ∧
          u.phase.rngState = (Config.rngNext t.phase.rngState).2) ∧
      (s.phase.workingTableIndex = 0 →
        u.phase.randomNumber = s.phase.randomNumber ∧ u.phase.rngState = t.phase.rngState)

/-- The Random output (R137): one of the scaled levels of the `RandomNumber` held before the tick's own draw, which
leaves one of the eight levels. -/
def Obligations.RandomOutputIsTheLatchedLevel : Prop :=
  ∀ s : State, Inv s → s.wave.waveform = .random →
    ∃ t, exec .sampleTick s = .next t ∧
      t.phase.pwmDuty.toNat = calcSignalDepth s.phase.randomNumber.toNat s.wave.depthRatio.toNat ∧
      ∃ k, k < 8 ∧ t.phase.randomNumber.toNat = 32 * k

/-! ### The tempo model -/

/-- `DUTY` (R150): the exact quotient rounded down, which fits 32 bits with room for the largest ratio, falls as the
period grows, and has the values the rule lists at the default `FS`. -/
def Obligations.DutyFitsAndFallsWithThePeriod : Prop :=
  (∀ (p : Params) (t u : Nat), p.Ok → p.lfoMaxTempo ≤ t → t ≤ u →
    duty p t = dutyFormula p t ∧ 0 < t * p.fs ∧ 4 * duty p t ≤ 2 ^ 31 ∧ duty p u ≤ duty p t) ∧
  duty Config.defaults 50 = 2748779 ∧ duty Config.defaults 500 = 274877 ∧
  duty Config.defaults 1000 = 137438 ∧ duty Config.defaults 10000 = 13743

/-- `SET_BASE_TEMPO` (R155, R154): committed strictly in range and more than 2 ms away from `BaseTempo`, and then the
trim is cleared and both increments follow; otherwise nothing changes. -/
def Obligations.SetBaseTempoCommitsOrLeavesAll : Prop :=
  (∀ imm : Half, decode .ext (BitVec.ofNat 32 (0x09000000 + imm.toNat)) = .ok (.setBaseTempo imm.toNat)) ∧
  ∀ (ms : Nat) (s : State), s.par.Ok →
    exec (.setBaseTempo ms) s =
      .next (if Commits s.par s.tempo.baseTempo ms then { s with tempo := committedTempo s.par ms s.tempo } else s) ∧
    (Commits s.par s.tempo.baseTempo ms →
      (committedTempo s.par ms s.tempo).baseTempo.toNat = ms ∧
      (committedTempo s.par ms s.tempo).baseDutyCycle.toNat = dutyFormula s.par ms ∧
      (committedTempo s.par ms s.tempo).workingDutyCycle.toNat =
        dutyFormula s.par ms * ratioNum s.tempo.multiplier / ratioDen s.tempo.multiplier)

/-- `ADJUST_SPEED` (R156): the idle counter is cleared in any case; the trim is added, without wrap, and both
increments follow, just when the new effective tempo is in the closed range. -/
def Obligations.AdjustSpeedTrimsOrOnlyClearsTheIdleCounter : Prop :=
  (∀ imm : Half, decode .ext (BitVec.ofNat 32 (0x07000000 + imm.toNat)) = .ok (.adjustSpeed imm.toInt)) ∧
  ∀ (delta : Int) (s : State), Inv s →
    let offset := s.tempo.tempoAdjustOffset.toInt + delta
    let e := (s.tempo.baseTempo.toNat : Int) + offset
    let cleared : State := { s with counters := { s.counters with speedAdjustMsCount := 0 } }
    if (s.par.lfoMaxTempo : Int) ≤ e ∧ e ≤ (s.par.lfoMinTempo : Int) then
      ∃ t, exec (.adjustSpeed delta) s = .next t ∧
        t.tempo.tempoAdjustOffset.toInt = offset ∧
        t.tempo.baseDutyCycle.toNat = dutyFormula s.par e.toNat ∧
        t.tempo.workingDutyCycle.toNat =
          dutyFormula s.par e.toNat * ratioNum s.tempo.multiplier / ratioDen s.tempo.multiplier ∧
        t = { cleared with tempo := { s.tempo with
          tempoAdjustOffset := t.tempo.tempoAdjustOffset
          baseDutyCycle := t.tempo.baseDutyCycle
          workingDutyCycle := t.tempo.workingDutyCycle } }
    else exec (.adjustSpeed delta) s = .next cleared

/-- `RESET_SPEED_ADJUST` (R157): the trim is cleared and both increments follow; with no trim held, nothing changes. -/
def Obligations.ResetSpeedAdjustClearsTheTrim : Prop :=
  decode .ext 0x08000000#32 = .ok .resetSpeedAdjust ∧
  ∀ s : State,
    exec .resetSpeedAdjust s =
      .next { s with tempo := { s.tempo with
        tempoAdjustOffset := 0
        baseDutyCycle := BitVec.ofNat 32 (dutyFormula s.par s.tempo.baseTempo.toNat)
        workingDutyCycle :=
          workingDuty (BitVec.ofNat 32 (dutyFormula s.par s.tempo.baseTempo.toNat)) s.tempo.multiplier } } ∧
    (Inv s → s.tempo.tempoAdjustOffset = 0 → exec .resetSpeedAdjust s = .next s)

/-- `SET_MULTIPLIER` (R158): steps and saturates; an unchanged multiplier changes nothing, a changed one recomputes
the working increment and sets the working phase by the formula of R153; nothing else changes. -/
def Obligations.SetMultiplierStepsAndAdjustsThePhase : Prop :=
  (decode .ext 0x03000001#32 = .ok (.setMultiplier .plus) ∧
    decode .ext 0x0300FFFF#32 = .ok (.setMultiplier .minus)) ∧
  ∀ (dir : Dir) (s : State),
    let new : Int := max 0 (min 9 ((multiplierCode s.tempo.multiplier : Int) + dirValue dir))
    if new = (multiplierCode s.tempo.multiplier : Int) then exec (.setMultiplier dir) s = .next s
    else
      ∃ m, (multiplierCode m : Int) = new ∧
        exec (.setMultiplier dir) s =
          .next { s with
            tempo := { s.tempo with
              multiplier := m
              workingDutyCycle := BitVec.ofNat 32 (s.tempo.baseDutyCycle.toNat * ratioNum m / ratioDen m) }
            phase := { s.phase with
              workingPhaseAccumulator :=
                BitVec.ofNat 32
                  (s.phase.basePhaseAccumulator.toNat * ratioNum m * s.tempo.multiplierAlignmentIndex.toNat /
                    ratioDen m) } }

/-- `RESET_MULTIPLIER` (R159): nothing at Quarter; otherwise Quarter, with the working increment equal to the base
increment and the working phase by the formula of R153; nothing else changes. -/
def Obligations.ResetMultiplierRestoresQuarter : Prop :=
  decode .ext 0x04000000#32 = .ok .resetMultiplier ∧
  ∀ s : State,
    exec .resetMultiplier s =
      .next (if s.tempo.multiplier = .quarter then s
        else
          { s with
            tempo := { s.tempo with multiplier := .quarter, workingDutyCycle := s.tempo.baseDutyCycle }
            phase := { s.phase with
              workingPhaseAccumulator :=
                BitVec.ofNat 32
                  (s.phase.basePhaseAccumulator.toNat * s.tempo.multiplierAlignmentIndex.toNat) } })

/-- The phase after a multiplier change follows the formula and not the rationale (R160): they agree with no base cycle
since the alignment and an index of 1, and differ in the rule's counterexample. -/
def Obligations.PhaseFormulaDiffersFromItsRationale : Prop :=
  (∀ (b : Word) (m : Multiplier),
    (adjustedPhase b m 1).toNat = b.toNat * ratioNum m / ratioDen m % 2 ^ 32 ∧ adjustedPhase b m 0 = 0) ∧
  adjustedPhase 0x40000000#32 .eighth 2 = 0 ∧ (2 * (1 * 2 ^ 32 + 0x40000000)) % 2 ^ 32 = 0x80000000

/-! ### Taps and sync edges -/

/-- `TAP` (R184): in IDLE it starts a count, in COUNTING it stops it. -/
def Obligations.TapStartsOrStopsTheCount : Prop :=
  decode .ext 0x0A000000#32 = .ok .tap ∧
  ∀ s : State, s.par.Ok →
    exec .tap s = .next (if s.flags.isCountingTempo = false then startedState s else stoppedState s)

/-- `SYNC_RISE` (R185): stops, whatever the state. -/
def Obligations.SyncRiseStopsTheCount : Prop :=
  (decode .int 0x82000000#32 = .ok .syncRise ∧ decode .ext 0x82000000#32 = .error .internalOpcode) ∧
  ∀ s : State, s.par.Ok → exec .syncRise s = .next (stoppedState s)

/-- `SYNC_FALL` (R186): starts, whatever the state. -/
def Obligations.SyncFallStartsTheCount : Prop :=
  (decode .int 0x83000000#32 = .ok .syncFall ∧ decode .ext 0x83000000#32 = .error .internalOpcode) ∧
  ∀ s : State, exec .syncFall s = .next (startedState s)

/-- Random seeding (R183): the first stop after reset seeds the generator from the count, whether or not the tempo is
accepted; nothing else seeds it, no event clears either flag, and only a sample tick's draw moves the generator on. -/
def Obligations.GeneratorIsSeededOnce : Prop :=
  ∀ (i : Instr) (s t : State), exec i s = .next t →
    let stops := i = .syncRise ∨ (i = .tap ∧ s.flags.isCountingTempo = true)
    (stops → t.flags.hasReceivedTapInput = true) ∧
    (stops → SeedsNow s.flags →
      t.flags.hasRandomSeed = true ∧ t.phase.rngState = Config.rngSeed s.counters.tempoMsCount) ∧
    (¬ (stops ∧ SeedsNow s.flags) →
      t.flags.hasRandomSeed = s.flags.hasRandomSeed ∧
        (t.phase.rngState = s.phase.rngState ∨
          (i = .sampleTick ∧ t.phase.rngState = (Config.rngNext s.phase.rngState).2))) ∧
    (¬ stops → t.flags.hasReceivedTapInput = s.flags.hasReceivedTapInput)

/-- Tap tempo (the source's S1): two taps with `n` millisecond ticks between them, `n` strictly in range, commit `n`,
or keep the base tempo when it is within 2 ms of `n`. -/
def Obligations.TwoTapsCommitTheMeasuredInterval : Prop :=
  ∀ (s : State) (n : Nat), Inv s → s.flags.isCountingTempo = false → s.par.lfoMaxTempo < n →
    n < s.par.lfoMinTempo →
    ∃ t, runTrace (.event .tap :: (List.replicate n (.event .msTick) ++ [.event .tap])) s = .next t ∧
      t.flags.isCountingTempo = false ∧ t.flags.hasReceivedTapInput = true ∧
      t.counters.tempoMsCount.toNat = n ∧
      t.phase.basePhaseAccumulator = 0 ∧ t.phase.workingPhaseAccumulator = 0 ∧
      t.tempo.baseTempo.toNat =
        if ((n : Int) - (s.tempo.baseTempo.toNat : Int)).natAbs ≤ 2 then s.tempo.baseTempo.toNat else n

/-- The tap timeout (R189, R201): after a first tap the count follows the ticks up to `LFO_MIN_TEMPO`, the next tick
returns the machine to IDLE with the count one above, and no tempo changes. -/
def Obligations.UnfinishedTapTimesOut : Prop :=
  ∀ (s : State) (n : Nat), Inv s → s.flags.isCountingTempo = false →
    ∃ t, runTrace (.event .tap :: List.replicate n (.event .msTick)) s = .next t ∧
      t.tempo = { s.tempo with multiplierAlignmentIndex := 0 } ∧
      t.flags.hasReceivedTapInput = s.flags.hasReceivedTapInput ∧
      (n ≤ s.par.lfoMinTempo → t.flags.isCountingTempo = true ∧ t.counters.tempoMsCount.toNat = n) ∧
      (s.par.lfoMinTempo < n →
        t.flags.isCountingTempo = false ∧ t.counters.tempoMsCount.toNat = s.par.lfoMinTempo + 1)

/-! ### The tick dispatcher and the system commands -/

/-- `MS_TICK` (R200), every element written out. -/
def Obligations.MsTickRunsTheFourSteps : Prop :=
  (decode .int 0x81000000#32 = .ok .msTick ∧ decode .ext 0x81000000#32 = .error .internalOpcode) ∧
  ∀ s : State,
    let counting := s.flags.isCountingTempo
    let holding := s.flags.isCountingModeResetTime
    let tempoNext := s.counters.tempoMsCount + 1
    let holdNext := s.counters.modeResetMsCount + 1
    let timeout := counting && decide (s.par.lfoMinTempo < tempoNext.toNat)
    let expiry := holding && decide (s.par.modeResetMinTime ≤ holdNext.toNat)
    exec .msTick s =
      .next { s with
        counters :=
          { tempoMsCount := if counting then tempoNext else s.counters.tempoMsCount
            modeResetMsCount := if expiry then 0 else if holding then holdNext else s.counters.modeResetMsCount
            speedAdjustMsCount :=
              if s.counters.speedAdjustMsCount.toNat < 0xFFFF then s.counters.speedAdjustMsCount + 1
              else s.counters.speedAdjustMsCount }
        flags := { s.flags with
          isCountingTempo := counting && !timeout
          isCountingModeResetTime := holding && !expiry
          isResettingMode := s.flags.isResettingMode || expiry }
        out := { s.out with debounceReq := true, modeResetReq := s.out.modeResetReq || expiry } }

/-- The hold timer (R202): it expires on the `MODE_RESET_MIN_TIME`-th millisecond tick after `MODE_HOLD_START`, and not
before; the pulse comes with that tick. That a pulse of an earlier event stays set along a trace, which is of events
and not of cycles, is the model's choice (log 16). -/
def Obligations.HoldTimerExpiresOnTime : Prop :=
  ∀ (s : State) (n : Nat), s.par.Ok → n ≤ s.par.modeResetMinTime →
    ∃ t, runTrace (.event .modeHoldStart :: List.replicate n (.event .msTick)) s = .next t ∧
      (n < s.par.modeResetMinTime →
        t.flags.isCountingModeResetTime = true ∧ t.flags.isResettingMode = false ∧
          t.counters.modeResetMsCount.toNat = n ∧ t.out.modeResetReq = s.out.modeResetReq) ∧
      (n = s.par.modeResetMinTime →
        t.flags.isCountingModeResetTime = false ∧ t.flags.isResettingMode = true ∧
          t.counters.modeResetMsCount = 0 ∧ t.out.modeResetReq = true)

/-- The speed-adjust idle counter (R203): after any `ADJUST_SPEED` it counts the millisecond ticks and saturates at
0xFFFF. -/
def Obligations.IdleCounterCountsSinceTheLastAdjustment : Prop :=
  ∀ (s : State) (delta : Int) (n : Nat),
    ∃ t, runTrace (.event (.adjustSpeed delta) :: List.replicate n (.event .msTick)) s = .next t ∧
      t.counters.speedAdjustMsCount.toNat = min 0xFFFF n

/-- `MODE_HOLD_START`, `MODE_HOLD_END`, `NOP` and `CLEAR_STATUS` (R204 to R207): what each writes, and nothing else. -/
def Obligations.SystemCommandsWriteOnlyTheirFlags : Prop :=
  (decode .ext 0x0B000000#32 = .ok .modeHoldStart ∧ decode .ext 0x0C000000#32 = .ok .modeHoldEnd ∧
    decode .ext 0x00000000#32 = .ok .nop ∧ decode .ext 0x0D000000#32 = .ok .clearStatus ∧
    ∀ w : Word, decode .ext w = .ok .nop → w = 0) ∧
  ∀ s : State,
    exec .modeHoldStart s =
      .next { s with
        flags := { s.flags with isCountingModeResetTime := true, isResettingMode := false }
        counters := { s.counters with modeResetMsCount := 0 } } ∧
    exec .modeHoldEnd s =
      .next { s with
        flags := { s.flags with isCountingModeResetTime := false, isResettingMode := false }
        counters := { s.counters with modeResetMsCount := 0 } } ∧
    exec .nop s = .next s ∧
    exec .clearStatus s = .next { s with flags := { s.flags with ill := false } }

/-- `ILL` is sticky (R252): no event but `CLEAR_STATUS` clears it, no legal event sets it, an illegal word sets it and
changes nothing else, and reset clears it. -/
def Obligations.IllegalFlagIsSticky : Prop :=
  (∀ (i : Instr) (s t : State), exec i s = .next t → i ≠ .clearStatus → t.flags.ill = s.flags.ill) ∧
  (∀ (w : Word) (r : Illegal) (s : State), decode .ext w = .error r →
    applyWord (.ext, w) s = .next { s with flags := { s.flags with ill := true } }) ∧
  (∀ s t : State, exec .clearStatus s = .next t → t.flags.ill = false) ∧
  ∀ s t : State, (nextInputs s).rst = true → step s = .next t → t.flags.ill = false
end

