-- ==== Sys2Proof/Laws/Decode.lean ====
section
/-! SUPPORT. The fields of an event word, and what the decoder's readers give. -/

namespace Sys2Proof

theorem opcField_toNat (w : Word) : (opcField w).toNat = w.toNat / 2 ^ 24 := by
  have := w.isLt
  unfold opcField
  rw [BitVec.extractLsb'_toNat, Nat.shiftRight_eq_div_pow]
  omega

theorem rsvField_toNat (w : Word) : (rsvField w).toNat = w.toNat / 2 ^ 16 % 2 ^ 8 := by
  unfold rsvField
  rw [BitVec.extractLsb'_toNat, Nat.shiftRight_eq_div_pow]

theorem immField_toNat (w : Word) : (immField w).toNat = w.toNat % 2 ^ 16 := by
  unfold immField
  rw [BitVec.extractLsb'_toNat, Nat.shiftRight_zero]

theorem eventWord_toNat (opc : Byte) (imm : Half) : (eventWord opc imm).toNat = opc.toNat * 2 ^ 24 + imm.toNat := by
  have := opc.isLt
  have := imm.isLt
  unfold eventWord
  rw [BitVec.toNat_ofNat]
  omega

@[simp] theorem opcField_eventWord (opc : Byte) (imm : Half) : opcField (eventWord opc imm) = opc := by
  have := imm.isLt
  apply BitVec.eq_of_toNat_eq
  rw [opcField_toNat, eventWord_toNat]
  omega

@[simp] theorem rsvField_eventWord (opc : Byte) (imm : Half) : rsvField (eventWord opc imm) = 0 := by
  have := imm.isLt
  apply BitVec.eq_of_toNat_eq
  rw [rsvField_toNat, eventWord_toNat]
  simp
  omega

@[simp] theorem immField_eventWord (opc : Byte) (imm : Half) : immField (eventWord opc imm) = imm := by
  have := imm.isLt
  apply BitVec.eq_of_toNat_eq
  rw [immField_toNat, eventWord_toNat]
  omega

/-- A word is its three fields (R80). -/
theorem eventWord_fields {w : Word} (h : rsvField w = 0) : eventWord (opcField w) (immField w) = w := by
  have hr := rsvField_toNat w
  rw [h] at hr
  apply BitVec.eq_of_toNat_eq
  rw [eventWord_toNat, opcField_toNat, immField_toNat]
  simp at hr
  omega

theorem readDir_dirImm (d : Dir) (f : Dir → Instr) : readDir (dirImm d) f = .ok (f d) := by cases d <;> rfl

/-- Format `D` is read only from the two words of R83. -/
theorem readDir_ok {imm : Half} {f : Dir → Instr} {i : Instr} (h : readDir imm f = .ok i) :
    ∃ d, imm = dirImm d ∧ i = f d := by
  unfold readDir at h
  split at h
  · next hi => cases h; exact ⟨.plus, hi, rfl⟩
  · split at h
    · next hi => cases h; exact ⟨.minus, hi, rfl⟩
    · cases h

/-- Formats `Z` and `I` are read only from `IMM16 = 0` (R83). -/
theorem readNone_ok {imm : Half} {e i : Instr} (h : readNone imm e = .ok i) : imm = 0 ∧ i = e := by
  unfold readNone at h
  split at h
  · next hi => cases h; exact ⟨hi, rfl⟩
  · cases h

end Sys2Proof
end

