-- ==== Sys2Proof/Laws/Memory.lean ====
section
/-! SUPPORT. The table memory: what each of its operations can do, and that each keeps the canonical form. -/

namespace Sys2Proof.Machine

@[simp] theorem readEntry_nil (i : Nat) : readEntry [] i = unlisted i := rfl

theorem readEntry_cons (c : Host.Cell) (m : Memory) (i : Nat) :
    readEntry (c :: m) i = if c.1 = i then c.2 else readEntry m i := by
  cases c; rfl

/-- An entry no cell lists reads as unlisted. -/
theorem readEntry_of_not_listed {m : Memory} {i : Nat} (h : ∀ c ∈ m, c.1 ≠ i) : readEntry m i = unlisted i := by
  induction m with
  | nil => rfl
  | cons c m ih =>
    rw [readEntry_cons, if_neg (h c (by simp)), ih (fun d hd => h d (by simp [hd]))]

/-- In a canonical memory a listed cell is what its entry reads as. -/
theorem readEntry_of_listed {m : Memory} (hm : m.Pairwise (fun a b => a.1 < b.1)) {c : Host.Cell} (hc : c ∈ m) :
    readEntry m c.1 = c.2 := by
  induction m with
  | nil => cases hc
  | cons d m ih =>
    rw [List.pairwise_cons] at hm
    rw [readEntry_cons]
    rcases List.mem_cons.mp hc with rfl | hc'
    · simp
    · rw [if_neg (by have := hm.1 c hc'; omega), ih hm.2 hc']

theorem memoryWf_nil : memoryWf [] := by simp [memoryWf]

theorem memoryWf_tail {c : Host.Cell} {m : Memory} (h : memoryWf (c :: m)) : memoryWf m :=
  ⟨(List.pairwise_cons.mp h.1).2, fun d hd => h.2 d (List.mem_cons_of_mem _ hd)⟩

theorem mem_listed {f : Nat → Byte} {n : Nat} {c : Host.Cell} :
    c ∈ (List.range n).filterMap (listedCell f) ↔ c.1 < n ∧ c.2 = f c.1 ∧ f c.1 ≠ unlisted c.1 := by
  simp only [List.mem_filterMap, List.mem_range, listedCell]
  constructor
  · rintro ⟨a, ha, h⟩
    split at h
    · cases h
    · cases h; exact ⟨ha, rfl, by assumption⟩
  · rintro ⟨h1, h2, h3⟩
    exact ⟨c.1, h1, by rw [if_neg h3, ← h2]⟩

theorem listed_pairwise (f : Nat → Byte) (n : Nat) :
    ((List.range n).filterMap (listedCell f)).Pairwise (fun a b => a.1 < b.1) := by
  refine List.Pairwise.filterMap (R := fun a b : Nat => a < b) _ ?_ List.pairwise_lt_range
  intro a b hab c hc d hd
  simp only [listedCell] at hc hd
  split at hc <;> cases hc
  split at hd <;> cases hd
  exact hab

/-- Writing a whole table gives a canonical memory. -/
theorem memoryWf_memoryOf (f : Nat → Byte) : memoryWf (memoryOf f) := by
  refine ⟨listed_pairwise f 256, fun c hc => ?_⟩
  have h := mem_listed.mp hc
  exact ⟨h.1, by rw [h.2.1]; exact h.2.2⟩

/-- What a whole table written at once reads as. -/
theorem readEntry_memoryOf (f : Nat → Byte) {i : Nat} (hi : i < 256) : readEntry (memoryOf f) i = f i := by
  by_cases h : f i = unlisted i
  · rw [readEntry_of_not_listed, h]
    intro c hc hci
    have := mem_listed.mp hc
    rw [hci] at this
    exact this.2.2 h
  · exact readEntry_of_listed (listed_pairwise f 256) (c := (i, f i)) (mem_listed.mpr ⟨hi, rfl, h⟩)

theorem memoryOf_congr {f g : Nat → Byte} (h : ∀ i, i < 256 → f i = g i) : memoryOf f = memoryOf g := by
  refine List.filterMap_congr fun i hi => ?_
  simp only [listedCell, h i (List.mem_range.mp hi)]

/-- The reset contents list nothing. -/
theorem memoryOf_unlisted : memoryOf unlisted = [] := by
  refine List.filterMap_eq_nil_iff.mpr fun i _ => ?_
  simp [listedCell]

theorem builtTable_default : builtTable Config.defaultSineQ .sine 100 = [] := memoryOf_unlisted

theorem memoryWf_builtTable (q : List Byte) (w : Waveform) (r : Nat) : memoryWf (builtTable q w r) :=
  memoryWf_memoryOf _

/-- What a rebuilt table reads as (R110). -/
theorem tableRead_builtTable (q : List Byte) (w : Waveform) (r : Nat) (i : Byte) :
    tableRead (builtTable q w r) i = tableEntry q w r i.toNat :=
  readEntry_memoryOf _ i.isLt

theorem memoryWf_reset : memoryWf State.reset.wave.depthTable := memoryWf_nil

/-- The cells after a write: the old ones and the one written. -/
theorem mem_writeEntry {m : Memory} {i : Nat} {v : Byte} {c : Host.Cell} (h : c ∈ writeEntry m i v) :
    c ∈ m ∨ (c = (i, v) ∧ v ≠ unlisted i) := by
  induction m with
  | nil =>
    simp only [writeEntry] at h
    split at h
    · cases h
    · exact .inr ⟨by simpa using h, by assumption⟩
  | cons d m ih =>
    obtain ⟨k, w⟩ := d
    simp only [writeEntry] at h
    split at h
    · split at h
      · exact .inl h
      · rcases List.mem_cons.mp h with rfl | h
        · exact .inr ⟨rfl, by assumption⟩
        · exact .inl h
    · split at h
      · split at h
        · exact .inl (List.mem_cons_of_mem _ h)
        · rcases List.mem_cons.mp h with rfl | h
          · exact .inr ⟨rfl, by assumption⟩
          · exact .inl (List.mem_cons_of_mem _ h)
      · rcases List.mem_cons.mp h with rfl | h
        · exact .inl (by simp)
        · rcases ih h with h | h
          · exact .inl (List.mem_cons_of_mem _ h)
          · exact .inr h

/-- A write keeps the canonical form. -/
theorem memoryWf_writeEntry {m : Memory} (hm : memoryWf m) {i : Nat} (hi : i < 256) (v : Byte) :
    memoryWf (writeEntry m i v) := by
  refine ⟨?_, fun c hc => ?_⟩
  · induction m with
    | nil => simp only [writeEntry]; split <;> simp
    | cons d m ih =>
      obtain ⟨k, w⟩ := d
      have hp := List.pairwise_cons.mp hm.1
      simp only [writeEntry]
      split
      · split
        · exact hm.1
        · refine List.pairwise_cons.mpr ⟨fun c hc => ?_, hm.1⟩
          rcases List.mem_cons.mp hc with rfl | hc
          · assumption
          · have := hp.1 c hc; simp only at this; simp only; omega
      · split
        · next h =>
          subst h
          split
          · exact hp.2
          · exact List.pairwise_cons.mpr ⟨fun c hc => hp.1 c hc, hp.2⟩
        · refine List.pairwise_cons.mpr ⟨fun c hc => ?_, ih (memoryWf_tail hm)⟩
          rcases mem_writeEntry hc with hc | ⟨rfl, _⟩
          · exact hp.1 c hc
          · simp only; omega
  · rcases mem_writeEntry hc with hc | ⟨rfl, hv⟩
    · exact hm.2 c hc
    · exact ⟨hi, hv⟩

/-- What a canonical memory reads as after a write: the written entry its new content, every other entry as before. -/
theorem readEntry_writeEntry {m : Memory} (hm : memoryWf m) (i : Nat) (v : Byte) (j : Nat) :
    readEntry (writeEntry m i v) j = if j = i then v else readEntry m j := by
  induction m with
  | nil =>
    simp only [writeEntry]
    by_cases hj : j = i
    · subst hj; split <;> simp_all [readEntry]
    · split <;> simp_all [readEntry, eq_comm]
  | cons d m ih =>
    obtain ⟨k, w⟩ := d
    have hp := List.pairwise_cons.mp hm.1
    simp only [writeEntry]
    split
    · next hik =>
      have hun : readEntry ((k, w) :: m) i = unlisted i :=
        readEntry_of_not_listed (by
          intro c hc
          rcases List.mem_cons.mp hc with rfl | hc
          · simp only; omega
          · have := hp.1 c hc; simp only at this; omega)
      split
      · next hv => split <;> simp_all
      · rw [readEntry_cons]; simp only [eq_comm]
    · split
      · next hik =>
        subst hik
        have hun : readEntry m k = unlisted k :=
          readEntry_of_not_listed (by intro c hc; have := hp.1 c hc; simp only at this; omega)
        split
        · next hv =>
          rw [readEntry_cons]
          by_cases hj : j = k
          · subst hj; simp [hun, hv]
          · simp [hj, Ne.symm hj]
        · rw [readEntry_cons, readEntry_cons]
          by_cases hj : j = k
          · simp [hj]
          · simp [hj, Ne.symm hj]
      · rw [readEntry_cons, readEntry_cons, ih (memoryWf_tail hm)]
        by_cases hj : j = i
        · subst hj; simp_all
        · simp [hj]

end Sys2Proof.Machine
end

