-- ==== Sys2Proof/Laws/State.lean ====
section
/-! SUPPORT. The small lemmas of the state's updates: for each named update, what each group of registers holds after
it, so that no later proof unfolds a record update. -/

namespace Sys2Proof.Machine

/-! ### `emitDebounceReq` -/

@[simp] theorem emitDebounceReq_par (s : State) : (emitDebounceReq s).par = s.par := rfl

@[simp] theorem emitDebounceReq_tempo (s : State) : (emitDebounceReq s).tempo = s.tempo := rfl

@[simp] theorem emitDebounceReq_phase (s : State) : (emitDebounceReq s).phase = s.phase := rfl

@[simp] theorem emitDebounceReq_wave (s : State) : (emitDebounceReq s).wave = s.wave := rfl

@[simp] theorem emitDebounceReq_flags (s : State) : (emitDebounceReq s).flags = s.flags := rfl

@[simp] theorem emitDebounceReq_counters (s : State) : (emitDebounceReq s).counters = s.counters := rfl

@[simp] theorem emitDebounceReq_timing (s : State) : (emitDebounceReq s).timing = s.timing := rfl

@[simp] theorem emitDebounceReq_inputs (s : State) : (emitDebounceReq s).inputs = s.inputs := rfl

@[simp] theorem emitDebounceReq_out (s : State) :
    (emitDebounceReq s).out =
    { s.out with debounceReq := true } := rfl

/-! ### `emitModeResetReq` -/

@[simp] theorem emitModeResetReq_par (s : State) : (emitModeResetReq s).par = s.par := rfl

@[simp] theorem emitModeResetReq_tempo (s : State) : (emitModeResetReq s).tempo = s.tempo := rfl

@[simp] theorem emitModeResetReq_phase (s : State) : (emitModeResetReq s).phase = s.phase := rfl

@[simp] theorem emitModeResetReq_wave (s : State) : (emitModeResetReq s).wave = s.wave := rfl

@[simp] theorem emitModeResetReq_flags (s : State) : (emitModeResetReq s).flags = s.flags := rfl

@[simp] theorem emitModeResetReq_counters (s : State) : (emitModeResetReq s).counters = s.counters := rfl

@[simp] theorem emitModeResetReq_timing (s : State) : (emitModeResetReq s).timing = s.timing := rfl

@[simp] theorem emitModeResetReq_inputs (s : State) : (emitModeResetReq s).inputs = s.inputs := rfl

@[simp] theorem emitModeResetReq_out (s : State) :
    (emitModeResetReq s).out =
    { s.out with modeResetReq := true } := rfl

/-! ### `buildTable` -/

@[simp] theorem buildTable_par (s : State) : (buildTable s).par = s.par := rfl

@[simp] theorem buildTable_tempo (s : State) : (buildTable s).tempo = s.tempo := rfl

@[simp] theorem buildTable_phase (s : State) : (buildTable s).phase = s.phase := rfl

@[simp] theorem buildTable_wave (s : State) :
    (buildTable s).wave =
    { s.wave with depthTable := builtTable s.par.sineQ s.wave.waveform s.wave.depthRatio.toNat } := rfl

@[simp] theorem buildTable_flags (s : State) : (buildTable s).flags = s.flags := rfl

@[simp] theorem buildTable_counters (s : State) : (buildTable s).counters = s.counters := rfl

@[simp] theorem buildTable_timing (s : State) : (buildTable s).timing = s.timing := rfl

@[simp] theorem buildTable_inputs (s : State) : (buildTable s).inputs = s.inputs := rfl

@[simp] theorem buildTable_out (s : State) : (buildTable s).out = s.out := rfl

/-! ### `recompute` -/

@[simp] theorem recompute_par (s : State) : (recompute s).par = s.par := rfl

@[simp] theorem recompute_tempo (s : State) :
    (recompute s).tempo =
    { s.tempo with
      baseDutyCycle := BitVec.ofNat 32 (duty s.par (effectiveTempo s.tempo).toNat)
      workingDutyCycle :=
        workingDuty (BitVec.ofNat 32 (duty s.par (effectiveTempo s.tempo).toNat)) s.tempo.multiplier } := rfl

@[simp] theorem recompute_phase (s : State) : (recompute s).phase = s.phase := rfl

@[simp] theorem recompute_wave (s : State) : (recompute s).wave = s.wave := rfl

@[simp] theorem recompute_flags (s : State) : (recompute s).flags = s.flags := rfl

@[simp] theorem recompute_counters (s : State) : (recompute s).counters = s.counters := rfl

@[simp] theorem recompute_timing (s : State) : (recompute s).timing = s.timing := rfl

@[simp] theorem recompute_inputs (s : State) : (recompute s).inputs = s.inputs := rfl

@[simp] theorem recompute_out (s : State) : (recompute s).out = s.out := rfl

/-! ### `adjustPhaseAccumulation` -/

@[simp] theorem adjustPhaseAccumulation_par (s : State) : (adjustPhaseAccumulation s).par = s.par := rfl

@[simp] theorem adjustPhaseAccumulation_tempo (s : State) : (adjustPhaseAccumulation s).tempo = s.tempo := rfl

@[simp] theorem adjustPhaseAccumulation_phase (s : State) :
    (adjustPhaseAccumulation s).phase =
    { s.phase with
      workingPhaseAccumulator :=
        adjustedPhase s.phase.basePhaseAccumulator s.tempo.multiplier s.tempo.multiplierAlignmentIndex } := rfl

@[simp] theorem adjustPhaseAccumulation_wave (s : State) : (adjustPhaseAccumulation s).wave = s.wave := rfl

@[simp] theorem adjustPhaseAccumulation_flags (s : State) : (adjustPhaseAccumulation s).flags = s.flags := rfl

@[simp] theorem adjustPhaseAccumulation_counters (s : State) : (adjustPhaseAccumulation s).counters = s.counters := rfl

@[simp] theorem adjustPhaseAccumulation_timing (s : State) : (adjustPhaseAccumulation s).timing = s.timing := rfl

@[simp] theorem adjustPhaseAccumulation_inputs (s : State) : (adjustPhaseAccumulation s).inputs = s.inputs := rfl

@[simp] theorem adjustPhaseAccumulation_out (s : State) : (adjustPhaseAccumulation s).out = s.out := rfl

/-! ### `resetSignals` -/

@[simp] theorem resetSignals_par (s : State) : (resetSignals s).par = s.par := rfl

@[simp] theorem resetSignals_tempo (s : State) :
    (resetSignals s).tempo =
    { s.tempo with multiplierAlignmentIndex := 0 } := rfl

@[simp] theorem resetSignals_phase (s : State) :
    (resetSignals s).phase =
    { s.phase with basePhaseAccumulator := 0, workingPhaseAccumulator := 0 } := rfl

@[simp] theorem resetSignals_wave (s : State) : (resetSignals s).wave = s.wave := rfl

@[simp] theorem resetSignals_flags (s : State) : (resetSignals s).flags = s.flags := rfl

@[simp] theorem resetSignals_counters (s : State) : (resetSignals s).counters = s.counters := rfl

@[simp] theorem resetSignals_timing (s : State) : (resetSignals s).timing = s.timing := rfl

@[simp] theorem resetSignals_inputs (s : State) : (resetSignals s).inputs = s.inputs := rfl

@[simp] theorem resetSignals_out (s : State) : (resetSignals s).out = s.out := rfl

/-! ### `startTempoCount` -/

@[simp] theorem startTempoCount_par (s : State) : (startTempoCount s).par = s.par := rfl

@[simp] theorem startTempoCount_tempo (s : State) :
    (startTempoCount s).tempo =
    { s.tempo with multiplierAlignmentIndex := 0 } := rfl

@[simp] theorem startTempoCount_phase (s : State) :
    (startTempoCount s).phase =
    { s.phase with basePhaseAccumulator := 0, workingPhaseAccumulator := 0 } := rfl

@[simp] theorem startTempoCount_wave (s : State) : (startTempoCount s).wave = s.wave := rfl

@[simp] theorem startTempoCount_flags (s : State) :
    (startTempoCount s).flags =
    { s.flags with isCountingTempo := true } := rfl

@[simp] theorem startTempoCount_counters (s : State) :
    (startTempoCount s).counters =
    { s.counters with tempoMsCount := 0 } := rfl

@[simp] theorem startTempoCount_timing (s : State) : (startTempoCount s).timing = s.timing := rfl

@[simp] theorem startTempoCount_inputs (s : State) : (startTempoCount s).inputs = s.inputs := rfl

@[simp] theorem startTempoCount_out (s : State) : (startTempoCount s).out = s.out := rfl

/-! ### `illegalEvent` -/

@[simp] theorem illegalEvent_par (s : State) : (illegalEvent s).par = s.par := rfl

@[simp] theorem illegalEvent_tempo (s : State) : (illegalEvent s).tempo = s.tempo := rfl

@[simp] theorem illegalEvent_phase (s : State) : (illegalEvent s).phase = s.phase := rfl

@[simp] theorem illegalEvent_wave (s : State) : (illegalEvent s).wave = s.wave := rfl

@[simp] theorem illegalEvent_flags (s : State) :
    (illegalEvent s).flags =
    { s.flags with ill := true } := rfl

@[simp] theorem illegalEvent_counters (s : State) : (illegalEvent s).counters = s.counters := rfl

@[simp] theorem illegalEvent_timing (s : State) : (illegalEvent s).timing = s.timing := rfl

@[simp] theorem illegalEvent_inputs (s : State) : (illegalEvent s).inputs = s.inputs := rfl

@[simp] theorem illegalEvent_out (s : State) : (illegalEvent s).out = s.out := rfl

/-! ### `alignWaveform` -/

@[simp] theorem alignWaveform_par (s : State) : (alignWaveform s).par = s.par := rfl

@[simp] theorem alignWaveform_tempo (s : State) :
    (alignWaveform s).tempo =
    { s.tempo with multiplierAlignmentIndex := alignTested s.tempo.multiplierAlignmentIndex + 1 } := rfl

@[simp] theorem alignWaveform_phase (s : State) :
    (alignWaveform s).phase =
    { s.phase with
      workingPhaseAccumulator :=
        if (alignTested s.tempo.multiplierAlignmentIndex).toNat % align s.tempo.multiplier = 0 then 0
        else s.phase.workingPhaseAccumulator } := rfl

@[simp] theorem alignWaveform_wave (s : State) : (alignWaveform s).wave = s.wave := rfl

@[simp] theorem alignWaveform_flags (s : State) : (alignWaveform s).flags = s.flags := rfl

@[simp] theorem alignWaveform_counters (s : State) : (alignWaveform s).counters = s.counters := rfl

@[simp] theorem alignWaveform_timing (s : State) : (alignWaveform s).timing = s.timing := rfl

@[simp] theorem alignWaveform_inputs (s : State) : (alignWaveform s).inputs = s.inputs := rfl

@[simp] theorem alignWaveform_out (s : State) : (alignWaveform s).out = s.out := rfl

/-! ### `baseStep` -/

@[simp] theorem baseStep_par (s : State) : (baseStep s).par = s.par := rfl

@[simp] theorem baseStep_tempo (s : State) : (baseStep s).tempo = s.tempo := rfl

@[simp] theorem baseStep_phase (s : State) :
    (baseStep s).phase =
    { s.phase with
      basePhaseAccumulator := s.phase.basePhaseAccumulator + s.tempo.baseDutyCycle
      baseTableIndex := phaseIndex (s.phase.basePhaseAccumulator + s.tempo.baseDutyCycle) } := rfl

@[simp] theorem baseStep_wave (s : State) : (baseStep s).wave = s.wave := rfl

@[simp] theorem baseStep_flags (s : State) : (baseStep s).flags = s.flags := rfl

@[simp] theorem baseStep_counters (s : State) : (baseStep s).counters = s.counters := rfl

@[simp] theorem baseStep_timing (s : State) : (baseStep s).timing = s.timing := rfl

@[simp] theorem baseStep_inputs (s : State) : (baseStep s).inputs = s.inputs := rfl

@[simp] theorem baseStep_out (s : State) : (baseStep s).out = s.out := rfl

/-! ### `workingStep` -/

@[simp] theorem workingStep_par (s : State) : (workingStep s).par = s.par := rfl

@[simp] theorem workingStep_tempo (s : State) : (workingStep s).tempo = s.tempo := rfl

@[simp] theorem workingStep_phase (s : State) :
    (workingStep s).phase =
    { s.phase with
      workingPhaseAccumulator := s.phase.workingPhaseAccumulator + s.tempo.workingDutyCycle
      workingTableIndex := phaseIndex (s.phase.workingPhaseAccumulator + s.tempo.workingDutyCycle) } := rfl

@[simp] theorem workingStep_wave (s : State) : (workingStep s).wave = s.wave := rfl

@[simp] theorem workingStep_flags (s : State) : (workingStep s).flags = s.flags := rfl

@[simp] theorem workingStep_counters (s : State) : (workingStep s).counters = s.counters := rfl

@[simp] theorem workingStep_timing (s : State) : (workingStep s).timing = s.timing := rfl

@[simp] theorem workingStep_inputs (s : State) : (workingStep s).inputs = s.inputs := rfl

@[simp] theorem workingStep_out (s : State) : (workingStep s).out = s.out := rfl

/-! ### `outputStep` -/

@[simp] theorem outputStep_par (s : State) : (outputStep s).par = s.par := rfl

@[simp] theorem outputStep_tempo (s : State) : (outputStep s).tempo = s.tempo := rfl

@[simp] theorem outputStep_phase (s : State) :
    (outputStep s).phase =
    { s.phase with pwmDuty := tableRead s.wave.depthTable (outputIndex s) } := rfl

@[simp] theorem outputStep_wave (s : State) : (outputStep s).wave = s.wave := rfl

@[simp] theorem outputStep_flags (s : State) : (outputStep s).flags = s.flags := rfl

@[simp] theorem outputStep_counters (s : State) : (outputStep s).counters = s.counters := rfl

@[simp] theorem outputStep_timing (s : State) : (outputStep s).timing = s.timing := rfl

@[simp] theorem outputStep_inputs (s : State) : (outputStep s).inputs = s.inputs := rfl

@[simp] theorem outputStep_out (s : State) : (outputStep s).out = s.out := rfl

/-! ### `openCycle` -/

@[simp] theorem openCycle_par (inp : Inputs) (s : State) : (openCycle inp s).par = s.par := rfl

@[simp] theorem openCycle_tempo (inp : Inputs) (s : State) : (openCycle inp s).tempo = s.tempo := rfl

@[simp] theorem openCycle_phase (inp : Inputs) (s : State) : (openCycle inp s).phase = s.phase := rfl

@[simp] theorem openCycle_wave (inp : Inputs) (s : State) : (openCycle inp s).wave = s.wave := rfl

@[simp] theorem openCycle_flags (inp : Inputs) (s : State) : (openCycle inp s).flags = s.flags := rfl

@[simp] theorem openCycle_counters (inp : Inputs) (s : State) : (openCycle inp s).counters = s.counters := rfl

@[simp] theorem openCycle_timing (inp : Inputs) (s : State) : (openCycle inp s).timing = s.timing := rfl

@[simp] theorem openCycle_inputs (inp : Inputs) (s : State) : (openCycle inp s).inputs = s.inputs := rfl

/-! ### `closeCycle` -/

@[simp] theorem closeCycle_par (inp : Inputs) (s : State) : (closeCycle inp s).par = s.par := rfl

@[simp] theorem closeCycle_tempo (inp : Inputs) (s : State) : (closeCycle inp s).tempo = s.tempo := rfl

@[simp] theorem closeCycle_phase (inp : Inputs) (s : State) : (closeCycle inp s).phase = s.phase := rfl

@[simp] theorem closeCycle_wave (inp : Inputs) (s : State) : (closeCycle inp s).wave = s.wave := rfl

@[simp] theorem closeCycle_flags (inp : Inputs) (s : State) : (closeCycle inp s).flags = s.flags := rfl

@[simp] theorem closeCycle_counters (inp : Inputs) (s : State) : (closeCycle inp s).counters = s.counters := rfl

@[simp] theorem closeCycle_inputs (inp : Inputs) (s : State) : (closeCycle inp s).inputs = s.inputs := rfl

@[simp] theorem closeCycle_out (inp : Inputs) (s : State) : (closeCycle inp s).out = s.out := rfl

/-! ### `dropInputs` -/

@[simp] theorem dropInputs_par (s : State) : (dropInputs s).par = s.par := rfl

@[simp] theorem dropInputs_tempo (s : State) : (dropInputs s).tempo = s.tempo := rfl

@[simp] theorem dropInputs_phase (s : State) : (dropInputs s).phase = s.phase := rfl

@[simp] theorem dropInputs_wave (s : State) : (dropInputs s).wave = s.wave := rfl

@[simp] theorem dropInputs_flags (s : State) : (dropInputs s).flags = s.flags := rfl

@[simp] theorem dropInputs_counters (s : State) : (dropInputs s).counters = s.counters := rfl

@[simp] theorem dropInputs_timing (s : State) : (dropInputs s).timing = s.timing := rfl

@[simp] theorem dropInputs_inputs (s : State) :
    (dropInputs s).inputs =
    s.inputs.tail := rfl

@[simp] theorem dropInputs_out (s : State) : (dropInputs s).out = s.out := rfl

/-! ### `resetRegisters` -/

@[simp] theorem resetRegisters_par (s : State) : (resetRegisters s).par = s.par := rfl

@[simp] theorem resetRegisters_inputs (s : State) : (resetRegisters s).inputs = s.inputs := rfl

@[simp] theorem resetRegisters_out (s : State) : (resetRegisters s).out = s.out := rfl

/-! ### `changeMultiplier` -/

@[simp] theorem changeMultiplier_par (m : Multiplier) (s : State) : (changeMultiplier m s).par = s.par := by
  unfold changeMultiplier
  split <;> rfl

@[simp] theorem changeMultiplier_wave (m : Multiplier) (s : State) : (changeMultiplier m s).wave = s.wave := by
  unfold changeMultiplier
  split <;> rfl

@[simp] theorem changeMultiplier_flags (m : Multiplier) (s : State) : (changeMultiplier m s).flags = s.flags := by
  unfold changeMultiplier
  split <;> rfl

@[simp] theorem changeMultiplier_counters (m : Multiplier) (s : State) : (changeMultiplier m s).counters = s.counters := by
  unfold changeMultiplier
  split <;> rfl

@[simp] theorem changeMultiplier_timing (m : Multiplier) (s : State) : (changeMultiplier m s).timing = s.timing := by
  unfold changeMultiplier
  split <;> rfl

@[simp] theorem changeMultiplier_inputs (m : Multiplier) (s : State) : (changeMultiplier m s).inputs = s.inputs := by
  unfold changeMultiplier
  split <;> rfl

@[simp] theorem changeMultiplier_out (m : Multiplier) (s : State) : (changeMultiplier m s).out = s.out := by
  unfold changeMultiplier
  split <;> rfl

/-! ### `setBaseTempo` -/

@[simp] theorem setBaseTempo_par (ms : Nat) (s : State) : (setBaseTempo ms s).par = s.par := by
  unfold setBaseTempo
  split
  · rfl
  · split <;> rfl

@[simp] theorem setBaseTempo_phase (ms : Nat) (s : State) : (setBaseTempo ms s).phase = s.phase := by
  unfold setBaseTempo
  split
  · rfl
  · split <;> rfl

@[simp] theorem setBaseTempo_wave (ms : Nat) (s : State) : (setBaseTempo ms s).wave = s.wave := by
  unfold setBaseTempo
  split
  · rfl
  · split <;> rfl

@[simp] theorem setBaseTempo_flags (ms : Nat) (s : State) : (setBaseTempo ms s).flags = s.flags := by
  unfold setBaseTempo
  split
  · rfl
  · split <;> rfl

@[simp] theorem setBaseTempo_counters (ms : Nat) (s : State) : (setBaseTempo ms s).counters = s.counters := by
  unfold setBaseTempo
  split
  · rfl
  · split <;> rfl

@[simp] theorem setBaseTempo_timing (ms : Nat) (s : State) : (setBaseTempo ms s).timing = s.timing := by
  unfold setBaseTempo
  split
  · rfl
  · split <;> rfl

@[simp] theorem setBaseTempo_inputs (ms : Nat) (s : State) : (setBaseTempo ms s).inputs = s.inputs := by
  unfold setBaseTempo
  split
  · rfl
  · split <;> rfl

@[simp] theorem setBaseTempo_out (ms : Nat) (s : State) : (setBaseTempo ms s).out = s.out := by
  unfold setBaseTempo
  split
  · rfl
  · split <;> rfl

/-! ### `seedOnFirstStop` -/

@[simp] theorem seedOnFirstStop_par (s : State) : (seedOnFirstStop s).par = s.par := by
  unfold seedOnFirstStop
  split <;> rfl

@[simp] theorem seedOnFirstStop_tempo (s : State) : (seedOnFirstStop s).tempo = s.tempo := by
  unfold seedOnFirstStop
  split <;> rfl

@[simp] theorem seedOnFirstStop_wave (s : State) : (seedOnFirstStop s).wave = s.wave := by
  unfold seedOnFirstStop
  split <;> rfl

@[simp] theorem seedOnFirstStop_counters (s : State) : (seedOnFirstStop s).counters = s.counters := by
  unfold seedOnFirstStop
  split <;> rfl

@[simp] theorem seedOnFirstStop_timing (s : State) : (seedOnFirstStop s).timing = s.timing := by
  unfold seedOnFirstStop
  split <;> rfl

@[simp] theorem seedOnFirstStop_inputs (s : State) : (seedOnFirstStop s).inputs = s.inputs := by
  unfold seedOnFirstStop
  split <;> rfl

@[simp] theorem seedOnFirstStop_out (s : State) : (seedOnFirstStop s).out = s.out := by
  unfold seedOnFirstStop
  split <;> rfl

/-! ### `boundaryStep` -/

@[simp] theorem boundaryStep_par (prevBase : Byte) (s : State) : (boundaryStep prevBase s).par = s.par := by
  unfold boundaryStep
  split <;> rfl

@[simp] theorem boundaryStep_wave (prevBase : Byte) (s : State) : (boundaryStep prevBase s).wave = s.wave := by
  unfold boundaryStep
  split <;> rfl

@[simp] theorem boundaryStep_flags (prevBase : Byte) (s : State) : (boundaryStep prevBase s).flags = s.flags := by
  unfold boundaryStep
  split <;> rfl

@[simp] theorem boundaryStep_counters (prevBase : Byte) (s : State) : (boundaryStep prevBase s).counters = s.counters := by
  unfold boundaryStep
  split <;> rfl

@[simp] theorem boundaryStep_timing (prevBase : Byte) (s : State) : (boundaryStep prevBase s).timing = s.timing := by
  unfold boundaryStep
  split <;> rfl

@[simp] theorem boundaryStep_inputs (prevBase : Byte) (s : State) : (boundaryStep prevBase s).inputs = s.inputs := by
  unfold boundaryStep
  split <;> rfl

@[simp] theorem boundaryStep_out (prevBase : Byte) (s : State) : (boundaryStep prevBase s).out = s.out := by
  unfold boundaryStep
  split <;> rfl

/-! ### `drawStep` -/

@[simp] theorem drawStep_par (prevWork : Byte) (s : State) : (drawStep prevWork s).par = s.par := by
  unfold drawStep
  split <;> rfl

@[simp] theorem drawStep_tempo (prevWork : Byte) (s : State) : (drawStep prevWork s).tempo = s.tempo := by
  unfold drawStep
  split <;> rfl

@[simp] theorem drawStep_wave (prevWork : Byte) (s : State) : (drawStep prevWork s).wave = s.wave := by
  unfold drawStep
  split <;> rfl

@[simp] theorem drawStep_flags (prevWork : Byte) (s : State) : (drawStep prevWork s).flags = s.flags := by
  unfold drawStep
  split <;> rfl

@[simp] theorem drawStep_counters (prevWork : Byte) (s : State) : (drawStep prevWork s).counters = s.counters := by
  unfold drawStep
  split <;> rfl

@[simp] theorem drawStep_timing (prevWork : Byte) (s : State) : (drawStep prevWork s).timing = s.timing := by
  unfold drawStep
  split <;> rfl

@[simp] theorem drawStep_inputs (prevWork : Byte) (s : State) : (drawStep prevWork s).inputs = s.inputs := by
  unfold drawStep
  split <;> rfl

@[simp] theorem drawStep_out (prevWork : Byte) (s : State) : (drawStep prevWork s).out = s.out := by
  unfold drawStep
  split <;> rfl

/-! ### `tempoCountStep` -/

@[simp] theorem tempoCountStep_par (s : State) : (tempoCountStep s).par = s.par := by
  unfold tempoCountStep
  split
  · dsimp only; split <;> rfl
  · rfl

@[simp] theorem tempoCountStep_tempo (s : State) : (tempoCountStep s).tempo = s.tempo := by
  unfold tempoCountStep
  split
  · dsimp only; split <;> rfl
  · rfl

@[simp] theorem tempoCountStep_phase (s : State) : (tempoCountStep s).phase = s.phase := by
  unfold tempoCountStep
  split
  · dsimp only; split <;> rfl
  · rfl

@[simp] theorem tempoCountStep_wave (s : State) : (tempoCountStep s).wave = s.wave := by
  unfold tempoCountStep
  split
  · dsimp only; split <;> rfl
  · rfl

@[simp] theorem tempoCountStep_timing (s : State) : (tempoCountStep s).timing = s.timing := by
  unfold tempoCountStep
  split
  · dsimp only; split <;> rfl
  · rfl

@[simp] theorem tempoCountStep_inputs (s : State) : (tempoCountStep s).inputs = s.inputs := by
  unfold tempoCountStep
  split
  · dsimp only; split <;> rfl
  · rfl

@[simp] theorem tempoCountStep_out (s : State) : (tempoCountStep s).out = s.out := by
  unfold tempoCountStep
  split
  · dsimp only; split <;> rfl
  · rfl

/-! ### `modeHoldStep` -/

@[simp] theorem modeHoldStep_par (s : State) : (modeHoldStep s).par = s.par := by
  unfold modeHoldStep
  split
  · dsimp only; split <;> rfl
  · rfl

@[simp] theorem modeHoldStep_tempo (s : State) : (modeHoldStep s).tempo = s.tempo := by
  unfold modeHoldStep
  split
  · dsimp only; split <;> rfl
  · rfl

@[simp] theorem modeHoldStep_phase (s : State) : (modeHoldStep s).phase = s.phase := by
  unfold modeHoldStep
  split
  · dsimp only; split <;> rfl
  · rfl

@[simp] theorem modeHoldStep_wave (s : State) : (modeHoldStep s).wave = s.wave := by
  unfold modeHoldStep
  split
  · dsimp only; split <;> rfl
  · rfl

@[simp] theorem modeHoldStep_timing (s : State) : (modeHoldStep s).timing = s.timing := by
  unfold modeHoldStep
  split
  · dsimp only; split <;> rfl
  · rfl

@[simp] theorem modeHoldStep_inputs (s : State) : (modeHoldStep s).inputs = s.inputs := by
  unfold modeHoldStep
  split
  · dsimp only; split <;> rfl
  · rfl

/-! ### `speedIdleStep` -/

@[simp] theorem speedIdleStep_par (s : State) : (speedIdleStep s).par = s.par := by
  unfold speedIdleStep
  split <;> rfl

@[simp] theorem speedIdleStep_tempo (s : State) : (speedIdleStep s).tempo = s.tempo := by
  unfold speedIdleStep
  split <;> rfl

@[simp] theorem speedIdleStep_phase (s : State) : (speedIdleStep s).phase = s.phase := by
  unfold speedIdleStep
  split <;> rfl

@[simp] theorem speedIdleStep_wave (s : State) : (speedIdleStep s).wave = s.wave := by
  unfold speedIdleStep
  split <;> rfl

@[simp] theorem speedIdleStep_flags (s : State) : (speedIdleStep s).flags = s.flags := by
  unfold speedIdleStep
  split <;> rfl

@[simp] theorem speedIdleStep_timing (s : State) : (speedIdleStep s).timing = s.timing := by
  unfold speedIdleStep
  split <;> rfl

@[simp] theorem speedIdleStep_inputs (s : State) : (speedIdleStep s).inputs = s.inputs := by
  unfold speedIdleStep
  split <;> rfl

@[simp] theorem speedIdleStep_out (s : State) : (speedIdleStep s).out = s.out := by
  unfold speedIdleStep
  split <;> rfl

end Sys2Proof.Machine
end

