-- ==== Sys2Proof/Laws/Ops.lean ====
section
/-! SUPPORT. One lemma per shared operation that says what it can do, for later proofs to cite instead of unfolding. -/

namespace Sys2Proof.Machine

/-! ### Settings -/

@[simp] theorem waveformOfCode_code (w : Waveform) : waveformOfCode (waveformCode w) = w := by cases w <;> rfl

@[simp] theorem multiplierOfCode_code (m : Multiplier) : multiplierOfCode (multiplierCode m) = m := by cases m <;> rfl

theorem waveformCode_lt (w : Waveform) : waveformCode w < 7 := by cases w <;> decide

theorem multiplierCode_lt (m : Multiplier) : multiplierCode m < 10 := by cases m <;> decide

theorem waveformCode_ofCode {n : Nat} (h : n < 7) : waveformCode (waveformOfCode n) = n := by
  interval_cases n <;> rfl

theorem multiplierCode_ofCode {n : Nat} (h : n < 10) : multiplierCode (multiplierOfCode n) = n := by
  interval_cases n <;> rfl

theorem ratioDen_pos (m : Multiplier) : 0 < ratioDen m := by cases m <;> decide

theorem ratioNum_le (m : Multiplier) : ratioNum m ≤ 4 * ratioDen m := by cases m <;> decide

theorem align_pos (m : Multiplier) : 0 < align m := by cases m <;> decide

theorem align_dvd (m : Multiplier) : align m ∣ 12 := by cases m <;> decide

/-- `SET_DEPTH`'s new ratio as a number. -/
theorem stepDepth_toInt (r : BitVec 7) (d : Dir) :
    ((stepDepth r d).toNat : Int) = clamp ((r.toNat : Int) + 5 * dirValue d) 0 100 := by
  have hr := r.isLt
  have hc : ∀ v : Int, 0 ≤ v → v ≤ 100 → ((BitVec.ofInt 7 v).toNat : Int) = v := by
    intro v h0 h1
    simp only [BitVec.toNat_ofInt]
    omega
  unfold stepDepth
  apply hc <;> unfold clamp <;> split <;> (try split) <;> omega

/-! ### Duty cycles -/

/-- A longer period has a smaller increment. -/
theorem duty_antitone {p : Params} (hfs : 0 < p.fs) {a b : Nat} (ha : 0 < a) (hab : a ≤ b) : duty p b ≤ duty p a :=
  Nat.div_le_div_left (Nat.mul_le_mul_right _ hab) (Nat.mul_pos ha hfs)

theorem fs_pos {p : Params} (h : p.Ok) : 0 < p.fs := by
  unfold Params.fs
  have := h.1
  omega

theorem msDiv_pos {p : Params} (h : p.Ok) : 0 < p.msDiv := by
  unfold Params.msDiv
  have := h.1
  omega

/-- The parameters of R7 meet R8, whatever `MODE_RESET_MIN_TIME` is. -/
theorem defaults_ok : Config.defaults.Ok := by
  have hold := Config.modeResetHold.isLt
  have time : Config.defaults.modeResetMinTime = Config.modeResetHold.val + 1 := rfl
  refine ⟨by decide, by decide, by decide, by decide, ?_, by decide, by decide⟩
  omega

/-- Every increment of a tempo in range leaves room for the largest ratio (R8, R150). -/
theorem duty_bound {p : Params} (h : p.Ok) {t : Nat} (ht : p.lfoMaxTempo ≤ t) : 4 * duty p t ≤ 2 ^ 31 := by
  have hfs := fs_pos h
  obtain ⟨_, ⟨h1, _⟩, _, h4, _⟩ := h
  have := duty_antitone hfs h1 ht
  unfold duty at *
  omega

theorem duty_toNat {p : Params} (h : p.Ok) {t : Nat} (ht : p.lfoMaxTempo ≤ t) :
    (BitVec.ofNat 32 (duty p t)).toNat = duty p t := by
  have := duty_bound h ht
  rw [BitVec.toNat_ofNat]
  exact Nat.mod_eq_of_lt (by omega)

/-- The working increment is at most four times the base increment. -/
theorem scaled_le (bd : Nat) (m : Multiplier) : (bd * ratioNum m) / ratioDen m ≤ 4 * bd := by
  refine Nat.div_le_of_le_mul ?_
  calc bd * ratioNum m ≤ bd * (4 * ratioDen m) := Nat.mul_le_mul_left _ (ratioNum_le m)
    _ = ratioDen m * (4 * bd) := by ring

theorem workingDuty_toNat {bd : Word} (h : 4 * bd.toNat ≤ 2 ^ 31) (m : Multiplier) :
    (workingDuty bd m).toNat = (bd.toNat * ratioNum m) / ratioDen m := by
  have := scaled_le bd.toNat m
  unfold workingDuty
  rw [BitVec.toNat_ofNat]
  exact Nat.mod_eq_of_lt (by omega)

/-! ### Procedures with cases -/

theorem setBaseTempo_out_of_range {s : State} {ms : Nat} (h : ¬ tempoInRange s.par ms) : setBaseTempo ms s = s :=
  if_pos h

theorem setBaseTempo_redundant {s : State} {ms : Nat} (h : tempoRedundant s.tempo.baseTempo ms) :
    setBaseTempo ms s = s := by
  by_cases hr : tempoInRange s.par ms
  · unfold setBaseTempo
    rw [if_neg (not_not.mpr hr), if_pos h]
  · exact setBaseTempo_out_of_range hr

theorem setBaseTempo_commit {s : State} {ms : Nat} (h1 : tempoInRange s.par ms)
    (h2 : ¬ tempoRedundant s.tempo.baseTempo ms) :
    setBaseTempo ms s =
      recompute { s with tempo := { s.tempo with baseTempo := BitVec.ofNat 16 ms, tempoAdjustOffset := 0 } } := by
  unfold setBaseTempo
  rw [if_neg (not_not.mpr h1), if_neg h2]

/-- The effective tempo right after a commit is the tempo committed. -/
theorem effectiveTempo_commit {ms : Nat} (h : ms < 65536) (t : Tempo) :
    effectiveTempo { t with baseTempo := BitVec.ofNat 16 ms, tempoAdjustOffset := 0 } = (ms : Int) := by
  unfold effectiveTempo
  simp [Nat.mod_eq_of_lt h]

theorem changeMultiplier_same (s : State) : changeMultiplier s.tempo.multiplier s = s := if_pos rfl

theorem changeMultiplier_ne {s : State} {m : Multiplier} (h : m ≠ s.tempo.multiplier) :
    changeMultiplier m s =
      adjustPhaseAccumulation
        { s with tempo := { s.tempo with
            multiplier := m
            workingDutyCycle := workingDuty s.tempo.baseDutyCycle m } } := if_neg h

/-- What the seeding inside `StopTempoCount` writes (R183). -/
theorem seedOnFirstStop_eq (s : State) :
    seedOnFirstStop s =
      { s with
        phase := { s.phase with
          rngState := if SeedsNow s.flags then Config.rngSeed s.counters.tempoMsCount else s.phase.rngState }
        flags := { s.flags with hasRandomSeed := if SeedsNow s.flags then true else s.flags.hasRandomSeed } } := by
  unfold seedOnFirstStop
  split <;> rfl

/-- What the tempo count step writes (R201). -/
theorem tempoCountStep_eq (s : State) :
    tempoCountStep s =
      { s with
        flags := { s.flags with
          isCountingTempo := s.flags.isCountingTempo && decide ((s.counters.tempoMsCount + 1).toNat ≤ s.par.lfoMinTempo) }
        counters := { s.counters with
          tempoMsCount := if s.flags.isCountingTempo then s.counters.tempoMsCount + 1 else s.counters.tempoMsCount } } := by
  obtain ⟨par, tempo, phase, wave, ⟨counting, f2, f3, f4, f5, f6⟩, counters, timing, inputs, out⟩ := s
  cases counting
  · rfl
  · simp only [tempoCountStep, if_true, Bool.true_and]
    split
    · next h => simp only [decide_eq_false (Nat.not_le.mpr h)]
    · next h => simp only [decide_eq_true (Nat.not_lt.mp h)]

/-- What the hold timer step does (R202): it expires, counts, or is idle. -/
theorem modeHoldStep_eq (s : State) :
    modeHoldStep s =
      if s.flags.isCountingModeResetTime = true ∧ s.par.modeResetMinTime ≤ (s.counters.modeResetMsCount + 1).toNat then
        { s with
          flags := { s.flags with isResettingMode := true, isCountingModeResetTime := false }
          counters := { s.counters with modeResetMsCount := 0 }
          out := { s.out with modeResetReq := true } }
      else
        { s with counters := { s.counters with
            modeResetMsCount :=
              if s.flags.isCountingModeResetTime then s.counters.modeResetMsCount + 1
              else s.counters.modeResetMsCount } } := by
  unfold modeHoldStep
  by_cases h : s.flags.isCountingModeResetTime = true
  · by_cases h1 : s.par.modeResetMinTime ≤ (s.counters.modeResetMsCount + 1).toNat
    · simp only [h, h1, and_self, if_true, emitModeResetReq]
    · simp only [h, h1, and_false, if_true, if_false]
  · simp only [h]
    rfl

/-- What the idle counter step writes (R203). -/
theorem speedIdleStep_eq (s : State) :
    speedIdleStep s =
      { s with counters := { s.counters with
          speedAdjustMsCount :=
            if s.counters.speedAdjustMsCount.toNat < 0xFFFF then s.counters.speedAdjustMsCount + 1
            else s.counters.speedAdjustMsCount } } := by
  unfold speedIdleStep
  split <;> rfl

theorem alignTested_le (mai : BitVec 4) : (alignTested mai).toNat ≤ 11 := by
  unfold alignTested
  split
  · simp
  · omega

/-! ### The millisecond prescaler -/

/-- The width of `MsCounter` is the least that holds `0..MS_DIV - 1` (R48). -/
theorem msWidth_least {p : Params} (h : p.Ok) : 2 ^ (msWidth p - 1) < p.msDiv ∧ p.msDiv ≤ 2 ^ msWidth p := by
  have hdiv : 32 ≤ p.msDiv := by
    have := h.1
    unfold Params.msDiv
    omega
  have hlt := @Nat.lt_log2_self (p.msDiv - 1)
  have hle := Nat.log2_self_le (n := p.msDiv - 1) (by omega)
  unfold msWidth
  rw [Nat.add_sub_cancel]
  omega

/-- A legal count is read as it is held. -/
theorem msCount_of_legal {p : Params} (h : p.Ok) {t : Timing} (ht : t.msCounter.toNat < p.msDiv) :
    msCount p t = t.msCounter.toNat := Nat.mod_eq_of_lt (ht.trans_le (msWidth_least h).2)

/-- What is written to `MsCounter` fits its width. -/
theorem msNext_lt_width (p : Params) (t : Timing) : (msNext p t).toNat < 2 ^ msWidth p := by
  have hpos : 0 < 2 ^ msWidth p := Nat.two_pow_pos _
  unfold msNext
  rw [BitVec.toNat_ofNat]
  refine (Nat.mod_le _ _).trans_lt ?_
  split
  · exact hpos
  · exact Nat.mod_lt _ hpos

/-- From a legal count the prescaler counts modulo `MS_DIV` (R225). -/
theorem msNext_of_legal {p : Params} (h : p.Ok) {t : Timing} (ht : t.msCounter.toNat < p.msDiv) :
    (msNext p t).toNat = (t.msCounter.toNat + 1) % p.msDiv := by
  have hw := (msWidth_least h).2
  have hmax : p.msDiv ≤ 2 ^ 32 := h.2.2.2.2.2.2
  unfold msNext
  rw [msCount_of_legal h ht, BitVec.toNat_ofNat]
  split
  · next he => rw [he, Nat.sub_add_cancel (by omega), Nat.mod_self, Nat.zero_mod]
  · next hne =>
    rw [Nat.mod_eq_of_lt (by omega : t.msCounter.toNat + 1 < 2 ^ msWidth p), Nat.mod_eq_of_lt (by omega),
      Nat.mod_eq_of_lt (by omega)]

/-! ### Cycles -/

theorem applyWord_ok {src : Source} {w : Word} {i : Instr} (h : decode src w = .ok i) (s : State) :
    applyWord (src, w) s = exec i s := by
  unfold applyWord
  simp only [h]

theorem applyWord_error {src : Source} {w : Word} {r : Illegal} (h : decode src w = .error r) (s : State) :
    applyWord (src, w) s = .next (illegalEvent s) := by
  unfold applyWord
  simp only [h]

@[simp] theorem andThen_next (s : State) (f : State → Host.Outcome State Fault Refusal) :
    andThen (.next s) f = f s := rfl

@[simp] theorem applyWords_nil (s : State) : applyWords [] s = .next s := rfl

@[simp] theorem applyWords_cons (e : EventWord) (es : List EventWord) (s : State) :
    applyWords (e :: es) s = andThen (applyWord e s) (applyWords es) := rfl

@[simp] theorem runTrace_nil (s : State) : runTrace [] s = .next s := rfl

@[simp] theorem runTrace_cons (x : TraceItem) (xs : List TraceItem) (s : State) :
    runTrace (x :: xs) s = andThen (runItem x s) (runTrace xs) := rfl

/-- What follows an outcome that goes on to a next state. -/
theorem andThen_eq_next {o : Host.Outcome State Fault Refusal} {f : State → Host.Outcome State Fault Refusal}
    {t : State} : andThen o f = .next t ↔ ∃ u, o = .next u ∧ f u = .next t := by
  cases o <;> simp [andThen]

theorem andThen_assoc (o : Host.Outcome State Fault Refusal) (f g : State → Host.Outcome State Fault Refusal) :
    andThen (andThen o f) g = andThen o (fun s => andThen (f s) g) := by
  cases o <;> rfl

theorem applyWords_append (xs ys : List EventWord) (s : State) :
    applyWords (xs ++ ys) s = andThen (applyWords xs s) (applyWords ys) := by
  induction xs generalizing s with
  | nil => rfl
  | cons x xs ih =>
    simp only [List.cons_append, applyWords_cons, andThen_assoc]
    congr 1
    funext t
    exact ih t

theorem runTrace_append (xs ys : List TraceItem) (s : State) :
    runTrace (xs ++ ys) s = andThen (runTrace xs s) (runTrace ys) := by
  induction xs generalizing s with
  | nil => rfl
  | cons x xs ih =>
    simp only [List.cons_append, runTrace_cons, andThen_assoc]
    congr 1
    funext t
    exact ih t

theorem cycle_reset {inp : Inputs} (h : inp.rst = true) (s : State) :
    cycle inp s = .next (resetRegisters (openCycle inp s)) := if_pos h

theorem cycle_run {inp : Inputs} (h : inp.rst = false) (s : State) :
    cycle inp s =
      andThen (applyWords (cycleEvents inp s) (openCycle inp s)) (fun t => .next (closeCycle inp t)) := by
  unfold cycle
  rw [if_neg (by simp [h])]

theorem step_of_inputs {s : State} {inp : Inputs} {rest : List Inputs} (h : s.inputs = inp :: rest) :
    step s = cycle inp { s with inputs := rest } := by
  unfold step nextInputs dropInputs
  rw [h]; rfl

end Sys2Proof.Machine
end

