-- ==== Sys2Proof/Laws/PerInstr.lean ====
section
/-! SUPPORT. Statements made per event: about its encoding. -/

namespace Sys2Proof.Laws.FieldsOfEncoding

/-- The encoded word has `RSV = 0` (R80), an opcode of the table (R84), and the opcode's high bit says that the event is
one the block generates itself (R81). -/
def Statement (i : Instr) : Prop :=
  rsvField (encode i) = 0 ∧ opcodeKnown (opcField (encode i)).toNat = true ∧
    (0x80 ≤ (opcField (encode i)).toNat ↔ i.source = .int)

theorem nop : Statement .nop := by simp [Statement, encode, opcodeKnown, Instr.source]
theorem setWaveform (dir : Dir) : Statement (.setWaveform dir) := by simp [Statement, encode, opcodeKnown, Instr.source]
theorem resetWaveform : Statement .resetWaveform := by simp [Statement, encode, opcodeKnown, Instr.source]
theorem setMultiplier (dir : Dir) : Statement (.setMultiplier dir) := by
  simp [Statement, encode, opcodeKnown, Instr.source]
theorem resetMultiplier : Statement .resetMultiplier := by simp [Statement, encode, opcodeKnown, Instr.source]
theorem setDepth (dir : Dir) : Statement (.setDepth dir) := by simp [Statement, encode, opcodeKnown, Instr.source]
theorem resetDepth : Statement .resetDepth := by simp [Statement, encode, opcodeKnown, Instr.source]
theorem adjustSpeed (delta : Int) : Statement (.adjustSpeed delta) := by
  simp [Statement, encode, opcodeKnown, Instr.source]
theorem resetSpeedAdjust : Statement .resetSpeedAdjust := by simp [Statement, encode, opcodeKnown, Instr.source]
theorem setBaseTempo (ms : Nat) : Statement (.setBaseTempo ms) := by simp [Statement, encode, opcodeKnown, Instr.source]
theorem tap : Statement .tap := by simp [Statement, encode, opcodeKnown, Instr.source]
theorem modeHoldStart : Statement .modeHoldStart := by simp [Statement, encode, opcodeKnown, Instr.source]
theorem modeHoldEnd : Statement .modeHoldEnd := by simp [Statement, encode, opcodeKnown, Instr.source]
theorem clearStatus : Statement .clearStatus := by simp [Statement, encode, opcodeKnown, Instr.source]
theorem sampleTick : Statement .sampleTick := by simp [Statement, encode, opcodeKnown, Instr.source]
theorem msTick : Statement .msTick := by simp [Statement, encode, opcodeKnown, Instr.source]
theorem syncRise : Statement .syncRise := by simp [Statement, encode, opcodeKnown, Instr.source]
theorem syncFall : Statement .syncFall := by simp [Statement, encode, opcodeKnown, Instr.source]

end Sys2Proof.Laws.FieldsOfEncoding
end

