-- ==== Sys2Proof/Tests/Slice0.lean ====
section
/-! SUPPORT. Tests: ill-formed events refused, words written out from the spec's encoding decoded, single steps against
the vectors of spec/95_test_vectors.md, the assembler's examples, and one witness for the hypotheses of each statement
that has any. -/

namespace Sys2Proof.Tests

open Sys2Proof Sys2Proof.Machine

/-! ### Well-formedness -/

theorem test_wellFormed_refuses_delta_above : (Instr.adjustSpeed 32768).wellFormed = false := by decide

theorem test_wellFormed_refuses_delta_below : (Instr.adjustSpeed (-32769)).wellFormed = false := by decide

theorem test_wellFormed_refuses_ms_above : (Instr.setBaseTempo 65536).wellFormed = false := by decide

theorem test_wellFormed_admits_the_ends :
    (Instr.adjustSpeed 32767).wellFormed = true ∧ (Instr.adjustSpeed (-32768)).wellFormed = true ∧
    (Instr.setBaseTempo 65535).wellFormed = true ∧ (Instr.setBaseTempo 0).wellFormed = true := by decide

/-! ### Decoding: each event's word from its fields `OPC`, `RSV` and `IMM16` (R80, R84) -/

/-- A word from its three fields, in bits. -/
def fields (opc rsv : BitVec 8) (imm : BitVec 16) : Word := opc ++ rsv ++ imm

theorem test_decode_nop : decode .ext (fields 0b00000000#8 0 0) = .ok .nop := by decide

theorem test_decode_setWaveform_plus :
    decode .ext (fields 0b00000001#8 0b00000000#8 0b0000000000000001#16) = .ok (.setWaveform .plus) := by decide

theorem test_decode_setWaveform_minus :
    decode .ext (fields 0b00000001#8 0b00000000#8 0b1111111111111111#16) = .ok (.setWaveform .minus) := by decide

theorem test_decode_resetWaveform : decode .ext (fields 0b00000010#8 0 0) = .ok .resetWaveform := by decide

theorem test_decode_setMultiplier :
    decode .ext (fields 0b00000011#8 0b00000000#8 0b1111111111111111#16) = .ok (.setMultiplier .minus) := by decide

theorem test_decode_resetMultiplier : decode .ext (fields 0b00000100#8 0 0) = .ok .resetMultiplier := by decide

theorem test_decode_setDepth :
    decode .ext (fields 0b00000101#8 0b00000000#8 0b0000000000000001#16) = .ok (.setDepth .plus) := by decide

theorem test_decode_resetDepth : decode .ext (fields 0b00000110#8 0 0) = .ok .resetDepth := by decide

/-- V-E7: `IMM16 = 0xFED4` is −300. -/
theorem test_decode_adjustSpeed :
    decode .ext (fields 0b00000111#8 0b00000000#8 0b1111111011010100#16) = .ok (.adjustSpeed (-300)) := by decide

theorem test_decode_resetSpeedAdjust : decode .ext (fields 0b00001000#8 0 0) = .ok .resetSpeedAdjust := by decide

/-- V-E10: `IMM16` of `SET_BASE_TEMPO` is unsigned. -/
theorem test_decode_setBaseTempo :
    decode .ext (fields 0b00001001#8 0b00000000#8 0b1111111111111111#16) = .ok (.setBaseTempo 65535) := by decide

theorem test_decode_tap : decode .ext (fields 0b00001010#8 0 0) = .ok .tap := by decide

theorem test_decode_modeHoldStart : decode .ext (fields 0b00001011#8 0 0) = .ok .modeHoldStart := by decide

theorem test_decode_modeHoldEnd : decode .ext (fields 0b00001100#8 0 0) = .ok .modeHoldEnd := by decide

theorem test_decode_clearStatus : decode .ext (fields 0b00001101#8 0 0) = .ok .clearStatus := by decide

theorem test_decode_sampleTick : decode .int (fields 0b10000000#8 0 0) = .ok .sampleTick := by decide

theorem test_decode_msTick : decode .int (fields 0b10000001#8 0 0) = .ok .msTick := by decide

theorem test_decode_syncRise : decode .int (fields 0b10000010#8 0 0) = .ok .syncRise := by decide

theorem test_decode_syncFall : decode .int (fields 0b10000011#8 0 0) = .ok .syncFall := by decide

/-- V-E2, V-E5, V-E6: an operand that is not legal for the format. -/
theorem test_decode_illegal_operand :
    decode .ext 0x00000001#32 = .error .operand ∧ decode .ext 0x01000002#32 = .error .operand ∧
    decode .ext 0x0100FFFE#32 = .error .operand ∧ decode .int 0x80000001#32 = .error .operand := by decide

/-- V-E12, and the same for a word that is illegal in two ways. -/
theorem test_decode_illegal_reserved :
    decode .ext 0x0A010000#32 = .error .reservedField ∧ decode .ext 0xFF800000#32 = .error .reservedField := by decide

/-- V-E14, V-E15, V-E19, V-E20: the first and last opcodes of the two unassigned ranges. -/
theorem test_decode_illegal_opcode :
    decode .ext 0x0E000000#32 = .error .unknownOpcode ∧ decode .ext 0x7F000000#32 = .error .unknownOpcode ∧
    decode .ext 0x84000000#32 = .error .unknownOpcode ∧ decode .ext 0xFF00FFFF#32 = .error .unknownOpcode := by decide

/-- V-E16, V-E18: an internal opcode on the command port. -/
theorem test_decode_illegal_internal :
    decode .ext 0x80000000#32 = .error .internalOpcode ∧ decode .ext 0x83000000#32 = .error .internalOpcode := by decide

/-- The assembler's examples of R88 and of section 3.1, as words. -/
theorem test_encode_examples :
    encode (.setDepth .minus) = 0x0500FFFF#32 ∧ encode (.adjustSpeed (-300)) = 0x0700FED4#32 ∧
    encode (.setBaseTempo 500) = 0x090001F4#32 ∧ encode (.setBaseTempo 51) = 0x09000033#32 := by decide

theorem test_tableWord :
    decodeTableWord 32 0x83000000 = some .syncFall ∧ decodeTableWord 32 0x0100FFFF = some (.setWaveform .minus) ∧
    decodeTableWord 32 0x0E000000 = none := by decide

/-! ### Assembler lines (R88 to R90) -/

theorem test_asm_signed : asmLine "ADJUST_SPEED -300 ; slower".toList = some [.event (.adjustSpeed (-300))] := by decide

theorem test_asm_repeat :
    asmLine ".repeat 2 SET_DEPTH -1".toList = some [.event (.setDepth .minus), .event (.setDepth .minus)] := by decide

theorem test_asm_word : asmLine ".word 0x05000002".toList = some [.word 0x05000002#32] := by decide

theorem test_asm_reset_settings :
    asmLine "RESET_SETTINGS".toList =
      some [.event .resetWaveform, .event .resetMultiplier, .event .resetDepth, .event .resetSpeedAdjust] := by decide

theorem test_asm_refuses : asmLine "SET_DEPTH 2".toList = none ∧ asmLine "TAP 1".toList = none := by decide

/-! ### Single steps -/

/-- A field of the next state. -/
def got {α : Type} (o : Host.Outcome State Fault Refusal) (f : State → α) : Option α :=
  match o with
  | .next t => some (f t)
  | .fault _ => none
  | .refused _ => none

/-- The reset state with `MODE_RESET_MIN_TIME = 3`, as the vectors set it. -/
def start : State := { State.reset with par := { Config.defaults with modeResetMinTime := 3 } }

/-- `start` with the tempo model's registers replaced. -/
def withTempo (f : Tempo → Tempo) : State := { start with tempo := f start.tempo }

/-- `start` with the phase engine's registers replaced. -/
def withPhase (f : Phase → Phase) : State := { start with phase := f start.phase }

/-- `start` with the builder's registers set and the table they give. -/
def withWave (w : Waveform) (r : BitVec 7) : State :=
  { start with wave := ⟨w, r, builtTable Config.defaultSineQ w r.toNat⟩ }

theorem withWave_entry (w : Waveform) (r : BitVec 7) (i : Byte) :
    tableRead (withWave w r).wave.depthTable i = tableEntry Config.defaultSineQ w r.toNat i.toNat :=
  tableRead_builtTable _ w r.toNat i

theorem test_nop : exec .nop start = .next start := rfl

/-- R111's example: from reset, RampUp. -/
theorem test_setWaveform_plus :
    exec (.setWaveform .plus) start = .next (withWave .rampUp 100) ∧
      tableRead (withWave .rampUp 100).wave.depthTable 200 = 200 :=
  ⟨rfl, (withWave_entry ..).trans (by decide)⟩

/-- V-T6: from reset, `SET_WAVEFORM -1` gives Random. -/
theorem test_setWaveform_minus_wraps :
    exec (.setWaveform .minus) start = .next (withWave .random 100) ∧
      tableRead (withWave .random 100).wave.depthTable 255 = 255 :=
  ⟨rfl, (withWave_entry ..).trans (by decide)⟩

/-- V-T8: from Square at depth 50, Sine at depth 50. -/
theorem test_resetWaveform :
    exec .resetWaveform (withWave .square 50) = .next (withWave .sine 50) ∧
      tableRead (withWave .sine 50).wave.depthTable 0 = 127 ∧ tableRead (withWave .sine 50).wave.depthTable 63 = 189 :=
  ⟨rfl, (withWave_entry ..).trans (by decide), (withWave_entry ..).trans (by decide)⟩

/-- V-T7: at 0, `SET_DEPTH -1` changes nothing. -/
theorem test_setDepth_at_zero : exec (.setDepth .minus) (withWave .triangle 0) = .next (withWave .triangle 0) := rfl

/-- V-T2: `v = 255` at depth 95, on RampUp. -/
theorem test_setDepth_steps :
    exec (.setDepth .minus) (withWave .rampUp 100) = .next (withWave .rampUp 95) ∧
      tableRead (withWave .rampUp 95).wave.depthTable 0 = 12 ∧
      tableRead (withWave .rampUp 95).wave.depthTable 255 = 254 :=
  ⟨rfl, (withWave_entry ..).trans (by decide), (withWave_entry ..).trans (by decide)⟩

/-- R114's example. -/
theorem test_resetDepth :
    exec .resetDepth (withWave .rampUp 50) = .next (withWave .rampUp 100) ∧
      tableRead (withWave .rampUp 100).wave.depthTable 77 = 77 :=
  ⟨rfl, (withWave_entry ..).trans (by decide)⟩

/-- V-M7, first row, with the increment of V-M2. -/
theorem test_setMultiplier_realigns :
    got (exec (.setMultiplier .plus)
        { withTempo (fun t => { t with multiplier := .dottedEighth, multiplierAlignmentIndex := 3 }) with
          phase := { start.phase with basePhaseAccumulator := 0x40000000 } })
      (fun t => (t.tempo.multiplier, t.tempo.workingDutyCycle, t.phase.workingPhaseAccumulator)) =
      some (.eighth, 274876, 0x80000000) := by decide

/-- V-S6: at Sixteenth, `+1` runs no adjustment. -/
theorem test_setMultiplier_saturates :
    got (exec (.setMultiplier .plus)
        { withTempo (fun t => { t with multiplier := .sixteenth }) with
          phase := { start.phase with workingPhaseAccumulator := 123 } })
      (fun t => (t.tempo.multiplier, t.phase.workingPhaseAccumulator)) = some (.sixteenth, 123) := by decide

/-- R159's example. -/
theorem test_resetMultiplier :
    got (exec .resetMultiplier
        { withTempo (fun t => { t with multiplier := .sixteenth, multiplierAlignmentIndex := 2 }) with
          phase := { start.phase with basePhaseAccumulator := 0x20000000 } })
      (fun t => (t.tempo.multiplier, t.tempo.workingDutyCycle, t.phase.workingPhaseAccumulator)) =
      some (.quarter, 137438, 0x40000000) := by decide

/-- V-M4: the lower end is inclusive. -/
theorem test_adjustSpeed_lower_end :
    got (exec (.adjustSpeed (-950)) start) (fun t => (t.tempo.tempoAdjustOffset.toInt, t.tempo.baseDutyCycle)) =
      some (-950, 2748779) := by decide

/-- V-M4: a rejection still clears the idle counter. -/
theorem test_adjustSpeed_rejected :
    got (exec (.adjustSpeed (-32768)) { start with counters := { start.counters with speedAdjustMsCount := 2 } })
      (fun t => (t.tempo, t.counters.speedAdjustMsCount)) = some (start.tempo, 0) := by decide

/-- V-R2: 0x002 after `ADJUST_SPEED -300`. -/
theorem test_readback_offset :
    got (exec (.adjustSpeed (-300)) start) (fun t => (readback t 0x002, readback t 0x003)) =
      some (0xFFFFFED4, 0x000002BC) := by decide

/-- V-M6. -/
theorem test_resetSpeedAdjust :
    got (exec .resetSpeedAdjust (withTempo (fun t => { t with tempoAdjustOffset := 0xFED4, baseDutyCycle := 196341 })))
      (fun t => (t.tempo.tempoAdjustOffset, t.tempo.baseDutyCycle, t.tempo.workingDutyCycle)) =
      some (0, 137438, 137438) := by decide

/-- V-M3: 1003 is committed. -/
theorem test_setBaseTempo_commits :
    got (exec (.setBaseTempo 1003) start) (fun t => (t.tempo.baseTempo, t.tempo.baseDutyCycle)) =
      some (1003, 137027) := by decide

/-- V-M3: the strict range and the hysteresis. -/
theorem test_setBaseTempo_rejects :
    [0, 50, 998, 1002, 10000, 65535].map (fun ms => got (exec (.setBaseTempo ms) start) (fun t => t.tempo)) =
      List.replicate 6 (some start.tempo) := by decide

/-- The first tap. -/
theorem test_tap_starts :
    got (exec .tap { withPhase (fun p => { p with basePhaseAccumulator := 7, baseTableIndex := 1 }) with
        counters := { start.counters with tempoMsCount := 9 } })
      (fun t => (t.flags.isCountingTempo, t.counters.tempoMsCount, t.phase.basePhaseAccumulator, t.phase.baseTableIndex)) =
      some (true, 0, 0, 1) := by decide

/-- V-S1: the second tap at 500 ms. -/
theorem test_tap_stops :
    got (exec .tap { start with
        flags := { start.flags with isCountingTempo := true }
        counters := { start.counters with tempoMsCount := 500 } })
      (fun t => (t.flags.isCountingTempo, t.flags.hasRandomSeed, t.tempo.baseTempo, t.tempo.workingDutyCycle)) =
      some (false, true, 500, 274877) := by decide

/-- V-P2: in IDLE a rise stops, and the count of 0 is rejected. -/
theorem test_syncRise_in_idle :
    got (exec .syncRise start)
      (fun t => (t.flags.hasReceivedTapInput, t.flags.hasRandomSeed, t.tempo.baseTempo)) = some (true, true, 1000) := by decide

/-- R186's example. -/
theorem test_syncFall_restarts :
    got (exec .syncFall { start with
        flags := { start.flags with isCountingTempo := true }
        counters := { start.counters with tempoMsCount := 77 } })
      (fun t => (t.flags.isCountingTempo, t.counters.tempoMsCount)) = some (true, 0) := by decide

/-- V-S3: the tick after 10000 times out. -/
theorem test_msTick_timeout :
    got (exec .msTick { start with
        flags := { start.flags with isCountingTempo := true }
        counters := { start.counters with tempoMsCount := 10000 } })
      (fun t => (t.flags.isCountingTempo, t.counters.tempoMsCount, t.tempo.baseTempo, t.out.debounceReq)) =
      some (false, 10001, 1000, true) := by decide

/-- V-D2: the third tick of a hold, and V-D5: saturation. -/
theorem test_msTick_hold_expires :
    got (exec .msTick { start with
        flags := { start.flags with isCountingModeResetTime := true }
        counters := { start.counters with modeResetMsCount := 2, speedAdjustMsCount := 0xFFFF } })
      (fun t => (t.flags.isResettingMode, t.flags.isCountingModeResetTime, t.counters, t.out.modeResetReq)) =
      some (true, false, ⟨0, 0, 0xFFFF⟩, true) := by decide

/-- R204's example, on a running timer (V-D4). -/
theorem test_modeHoldStart :
    got (exec .modeHoldStart { start with
        flags := { start.flags with isCountingModeResetTime := true }
        counters := { start.counters with modeResetMsCount := 2 } })
      (fun t => (readback t 0x000, t.counters.modeResetMsCount)) = some (0x8, 0) := by decide

/-- V-D2's last line. -/
theorem test_modeHoldEnd :
    got (exec .modeHoldEnd { start with flags := { start.flags with isResettingMode := true } })
      (fun t => (readback t 0x000, t.counters.modeResetMsCount)) = some (0, 0) := by decide

/-- V-D7: the illegal word sets `STATUS[8]`. -/
theorem test_illegal_word :
    got (applyWord (.ext, 0x0E000000#32) start) (fun t => readback t 0x000) = some 0x00000100 := by decide

/-- V-D7: `CLEAR_STATUS` keeps the `TempoState` flags. -/
theorem test_clearStatus :
    got (exec .clearStatus { start with flags := { start.flags with ill := true, hasRandomSeed := true } })
      (fun t => readback t 0x000) = some 0x4 := by decide

/-- V-A1: the first sample tick. -/
theorem test_sampleTick_first :
    got (exec .sampleTick start) (fun t => (t.phase.basePhaseAccumulator, t.phase.workingPhaseAccumulator,
        t.phase.baseTableIndex, t.phase.pwmDuty, t.phase.tempoIndicator)) =
      some (0x000218DE, 0x000218DE, 0, 0, false) := by decide

/-- V-A4: the tick after a tap, with both indexes stale at 1. -/
theorem test_sampleTick_stale :
    got (exec .sampleTick (withPhase (fun p => { p with baseTableIndex := 1, workingTableIndex := 1 })))
      (fun t => (t.phase.tempoIndicator, t.tempo.multiplierAlignmentIndex, t.phase.workingPhaseAccumulator,
        t.phase.workingTableIndex)) = some (true, 1, 0x000218DE, 0) := by decide

/-! ### Tables and cycles -/

/-- V-T1, rows 64, 111 and 224. -/
theorem test_shapes :
    [64, 111, 224].map (shape Config.defaultSineQ .sine) = [131, 246, 35] ∧
    [64, 111, 224].map (shape Config.defaultSineQ .triangle) = [128, 222, 62] ∧
    [64, 111, 112].map (shape Config.defaultSineQ .quadPulse) = [255, 255, 0] := by decide

/-- V-T2, columns 32 and 254. -/
theorem test_depth : [0, 5, 10, 50, 95, 100].map (calcSignalDepth 32) = [255, 243, 232, 143, 42, 32] ∧
    [0, 5, 10, 50, 95, 100].map (calcSignalDepth 254) = [255, 254, 254, 254, 253, 254] := by decide

/-- V-M2. -/
theorem test_workingDuty :
    (List.range 10).map (fun k => (workingDuty 137438 (multiplierOfCode k)).toNat) =
      [34359, 45812, 68719, 91625, 137438, 183250, 274876, 366501, 412314, 549752] := by decide

/-- A table write lists what differs from the reset contents, and no more. -/
theorem test_memory_canonical :
    writeEntry [] 7 9 = [(7, 9)] ∧ writeEntry [(7, 9)] 7 (unlisted 7) = [] ∧
    writeEntry [(7, 9)] 3 200 = [(3, 200), (7, 9)] := by decide

/-- `start` with one cycle's pins listed. -/
def withPins (s : State) (inp : Inputs) : State := { s with inputs := [inp] }

/-- The pins of a cycle with a command. -/
def command (w : Word) : Inputs := { Inputs.idle with cmdValid := true, cmdWord := w }

/-- V-X1: an illegal word in the cycle of a sample tick. -/
theorem test_cycle_tick_then_illegal :
    got (step (withPins { start with timing := { start.timing with pwmCounter := 255 } } (command 0x0E000000#32)))
      (fun t => (t.flags.ill, t.phase.basePhaseAccumulator, t.timing.pwmCounter)) = some (true, 0x000218DE, 0) := by decide

/-- V-C7: `SYNC_FALL` and `TAP` in one cycle. -/
theorem test_cycle_fall_then_tap :
    got (step (withPins { start with timing := { start.timing with syncArm := 3, sync3 := true } } (command 0x0A000000#32)))
      (fun t => (t.flags.isCountingTempo, t.flags.hasReceivedTapInput, t.tempo.baseTempo)) = some (false, true, 1000) := by
  decide

/-- V-R1, at the addresses whose value is not 0. -/
theorem test_readback_reset :
    [0x001, 0x003, 0x005, 0x006, 0x008, 0x009, 0x13F, 0x17F, 0x180].map (fun a => (readback State.reset a).toNat) =
      [1000, 1000, 4, 100, 137438, 137438, 124, 255, 255] := by decide

/-- R48: 13 bits at the default `MS_DIV`; the readback word shows no bit above them. -/
theorem test_msCounter_width :
    msWidth Config.defaults = 13 ∧
    readback { start with timing := { start.timing with msCounter := 0x2005 } } 0x014 = 5 ∧
    msNext start.par { start.timing with msCounter := 0x1FFF } = 0 := by decide

/-- A word of the command port placed by `withFetchWord` runs in the first step. -/
theorem test_placed_command :
    got (step (State.reset.withFetchWord 32 0x01000001)) (fun t => t.wave.waveform) = some .rampUp := by decide

/-- A word of the timing layer placed by `withFetchWord` runs in the first step. -/
theorem test_placed_tick :
    got (step (State.reset.withFetchWord 32 0x81000000)) (fun t => t.counters.speedAdjustMsCount) = some 1 := by decide

/-! ### Witnesses: for each statement with hypotheses, a state and operands that meet them -/

theorem start_ok : start.par.Ok := by decide

/-- `start` after some use: 500 ms trimmed to 450 ms, at Dotted Eighth, a count running, a hold running. -/
def used : State :=
  { withWave .random 85 with
    tempo := ⟨500, -50, 305419, 407225, .dottedEighth, 4⟩
    phase := ⟨0xFFFFF000, 0xFF000000, 0xFF, 0xFF, 0x60, 0, 0, true⟩
    flags := ⟨true, true, true, true, false, true⟩
    counters := ⟨10000, 2, 0xFFFF⟩ }

theorem start_inv : Inv start where
  params := start_ok
  baseTempo := by decide
  effective := by decide
  baseDuty := by decide
  workingDuty := by decide
  alignIndex := by decide
  depthRatio := by decide
  table := builtTable_default.symm
  random := by decide
  tempoCount := by decide
  countingCount := by decide
  modeCount := by decide
  modeFlags := by decide
  seedFlags := by decide
  msCounter := by decide

theorem used_inv : Inv used where
  params := start_ok
  baseTempo := by decide
  effective := by decide
  baseDuty := by decide
  workingDuty := by decide
  alignIndex := by decide
  depthRatio := by decide
  table := rfl
  random := by decide
  tempoCount := by decide
  countingCount := by decide
  modeCount := by decide
  modeFlags := by decide
  seedFlags := by decide
  msCounter := by decide

/-- Of the phase engine, the invariant constrains `RandomNumber` only. -/
theorem inv_withPhase {s : State} (h : Inv s) (p : Phase) (hp : p.randomNumber.toNat % 32 = 0) :
    Inv { s with phase := p } where
  params := h.params
  baseTempo := h.baseTempo
  effective := h.effective
  baseDuty := h.baseDuty
  workingDuty := h.workingDuty
  alignIndex := h.alignIndex
  depthRatio := h.depthRatio
  table := h.table
  random := hp
  tempoCount := h.tempoCount
  countingCount := h.countingCount
  modeCount := h.modeCount
  modeFlags := h.modeFlags
  seedFlags := h.seedFlags
  msCounter := h.msCounter

/-- The block at the default parameters, with a base index left over and no working index. -/
def staleBase : State := { State.reset with phase := { State.reset.phase with baseTableIndex := 1 } }

/-- The same the other way round. -/
def staleWorking : State := { State.reset with phase := { State.reset.phase with workingTableIndex := 1 } }

theorem staleBase_inv : Inv staleBase where
  params := defaults_ok
  baseTempo := by decide
  effective := by decide
  baseDuty := by decide
  workingDuty := by decide
  alignIndex := by decide
  depthRatio := by decide
  table := builtTable_default.symm
  random := by decide
  tempoCount := by decide
  countingCount := by decide
  modeCount := Nat.succ_pos _
  modeFlags := by decide
  seedFlags := by decide
  msCounter := by decide

theorem staleWorking_inv : Inv staleWorking := inv_withPhase staleBase_inv staleWorking.phase rfl

theorem witness_DecodeOfEncodeGivesTheEvent :
    (Instr.adjustSpeed (-32768)).wellFormed = true ∧ (Instr.setBaseTempo 65535).wellFormed = true ∧
    Instr.syncFall.wellFormed = true ∧ Instr.syncFall.source = .int := by decide

theorem witness_EncodeOfDecodedEventIsTheWord :
    decode .ext 0x0700FED4#32 = .ok (.adjustSpeed (-300)) ∧ decode .int 0x83000000#32 = .ok .syncFall := by decide

theorem witness_IllegalWordsAreExactlyTheListed :
    decode .ext 0x00010000#32 = .error .reservedField ∧ decode .ext 0x0E000000#32 = .error .unknownOpcode ∧
    decode .ext 0x7F000000#32 = .error .unknownOpcode ∧ decode .ext 0x80000000#32 = .error .internalOpcode ∧
    decode .ext 0x83000000#32 = .error .internalOpcode ∧ decode .ext 0x84000000#32 = .error .unknownOpcode ∧
    decode .ext 0x05000000#32 = .error .operand ∧ decode .ext 0x0D00FFFF#32 = .error .operand ∧
    decode .ext 0#32 = .ok .nop := by decide

/-- A cycle with a `TAP` and nothing else due, while the synchronizer arms and after it has armed. -/
def tapCycle (arm : BitVec 2) (sync2 sync3 : Bool) : State :=
  withPins { start with timing := { start.timing with syncArm := arm, sync2 := sync2, sync3 := sync3 } }
    (command 0x0A000000#32)

theorem witness_StepRunsTheDecodedCommand :
    (∀ s ∈ [tapCycle 2 true false, tapCycle 3 true true],
      s.inputs = [command 0x0A000000#32] ∧ s.timing.pwmCounter ≠ 255 ∧
        s.timing.msCounter.toNat % 2 ^ msWidth s.par ≠ s.par.msDiv - 1 ∧
        (s.timing.syncArm ≠ 3 ∨ s.timing.sync2 = s.timing.sync3)) ∧
    (command 0x0A000000#32).rst = false ∧ (command 0x0A000000#32).cmdValid = true ∧
    decode .ext (command 0x0A000000#32).cmdWord = .ok .tap := by decide

theorem witness_CycleAppliesEventsInFixedOrder :
    (tapCycle 3 false true).inputs = [command 0x0A000000#32] ∧ (command 0x0A000000#32).rst = false := by decide

theorem witness_OutputPortsOfACycle :
    (withPins start Inputs.idle).inputs = [Inputs.idle] ∧ Inputs.idle.rst = false := by decide

theorem witness_PlacedWordIsTheFirstEventRun :
    (Instr.setBaseTempo 0).wellFormed = true ∧ Instr.msTick.wellFormed = true := by decide

theorem witness_EventsKeepTimingRegisters : exec .syncFall used = .next (startedState used) := rfl

theorem witness_ReadbackHasNoSideEffect :
    blankReads (withPins start { Inputs.idle with rdAddr := 0x100 }) =
      blankReads (withPins start { Inputs.idle with rdAddr := 0x001 }) ∧
    ∃ s', step (withPins start { Inputs.idle with rdAddr := 0x100 }) = .next s' := ⟨rfl, _, rfl⟩

theorem noReset_of_nothing_listed {s : State} (h : s.inputs = []) (n : Nat) : NoReset s n := by
  intro k _
  unfold pinsAt
  rw [h]
  rfl

theorem witness_TickCyclesArePeriodic :
    start.par.Ok ∧ start.timing.msCounter.toNat < start.par.msDiv ∧ start.timing.pwmCounter = 0 ∧
    start.timing.msCounter = 0 ∧ NoReset start 255 ∧ 255 % 256 = 255 ∧ NoReset start 7999 ∧
    7999 % start.par.msDiv = start.par.msDiv - 1 :=
  ⟨start_ok, by decide, rfl, rfl, noReset_of_nothing_listed rfl _, rfl, noReset_of_nothing_listed rfl _, by decide⟩

theorem witness_PwmPeriodIsHighForPwmActiveCycles :
    start.timing.pwmCounter = 0 ∧ 0 < 256 ∧ NoReset start (0 + 1) ∧ 255 < 256 ∧ NoReset start (255 + 1) :=
  ⟨rfl, by decide, noReset_of_nothing_listed rfl _, by decide, noReset_of_nothing_listed rfl _⟩

/-- Three cycles in which `sync_in` is sampled low, high and high: a rise is due after them. -/
theorem witness_SyncEdgesFollowTheSamples :
    start.timing.syncArm = 0 ∧ NoReset start 0 ∧ NoReset start 2 ∧
    NoReset { start with inputs := [Inputs.idle, { Inputs.idle with syncIn := true }] } 3 ∧
    (pinsAt { start with inputs := [Inputs.idle, { Inputs.idle with syncIn := true }] } 0).syncIn = false ∧
    (pinsAt { start with inputs := [Inputs.idle, { Inputs.idle with syncIn := true }] } 1).syncIn = true :=
  ⟨rfl, noReset_of_nothing_listed rfl _, noReset_of_nothing_listed rfl _, by unfold NoReset; decide, rfl, rfl⟩

theorem witness_ReadbackMapHoldsEveryElement :
    0 ≤ effectiveTempo used.tempo ∧ effectiveTempo used.tempo < 65536 ∧ 0x016 ≤ (0x016#9).toNat ∧
    (0x016#9).toNat ≤ 0x0FF ∧ (0x0FF#9).toNat ≤ 0x0FF ∧ 0x100 ≤ (0x100#9).toNat ∧ 0x100 ≤ (0x1FF#9).toNat := by
  decide

/-- The pins of a cycle with reset and a command. -/
def resetPins : Inputs := { command 0x01000001#32 with rst := true }

theorem witness_ResetCycleSetsEveryRegister :
    ({ State.reset with inputs := [resetPins, resetPins] } : State).inputs = resetPins :: [resetPins] ∧
    resetPins.rst = true ∧ ({ State.reset with inputs := [resetPins, resetPins] } : State).par = Config.defaults :=
  ⟨rfl, rfl, rfl⟩

theorem witness_ResetCycleEstablishesInv :
    (withPins used resetPins).par.Ok ∧ (withPins used resetPins).inputs = [resetPins] ∧ resetPins.rst = true ∧
    ∃ t, step (withPins used resetPins) = .next t := ⟨start_ok, rfl, rfl, _, rfl⟩

theorem witness_EveryStepKeepsInv : Inv used ∧ ∃ t, step used = .next t := ⟨used_inv, _, rfl⟩

theorem witness_EveryTraceKeepsInv :
    Inv used ∧ ∃ t, runTrace [.event .sampleTick, .word 0x0E000000#32, .event .msTick] used = .next t :=
  ⟨used_inv, _, rfl⟩

/-- Both ways to be reset, and a trace that sets each of the flags the last two clauses speak of. -/
theorem witness_ReachedStatesSatisfyTheNineClauses :
    (∃ t, runTrace [.event .syncRise] State.reset = .next t ∧ t.flags.hasRandomSeed = true) ∧
    (withPins used resetPins).par.Ok ∧ (nextInputs (withPins used resetPins)).rst = true ∧
    ∃ r t, step (withPins used resetPins) = .next r ∧
      runTrace [.event .modeHoldStart, .event .msTick, .event .msTick, .event .msTick] r = .next t ∧
      t.flags.isResettingMode = true :=
  ⟨⟨_, rfl, rfl⟩, start_ok, rfl, _, _, rfl, rfl, rfl⟩

theorem witness_CanonicalMemoriesReadingEqualAreEqual :
    memoryWf [(3, 200), (7, 9)] ∧ memoryWf (writeEntry [(7, 9)] 3 200) ∧
    ∀ i, i < 256 → readEntry [(3, 200), (7, 9)] i = readEntry (writeEntry [(7, 9)] 3 200) i :=
  ⟨by decide, by decide, fun _ _ => rfl⟩

theorem witness_BuildTableIsTheLoopOfWrites : memoryWf used.wave.depthTable :=
  memoryWf_builtTable Config.defaultSineQ .random 85

theorem witness_ShapesOfTheSimpleWaveforms :
    0 < 256 ∧ 0 ≤ 127 ∧ 127 ≤ 127 ∧ 255 < 256 ∧ shape [] .quadPulse 255 ≠ 255 := by decide

theorem witness_SineTableIsBuiltByTheAssignments : 255 < 256 ∧ 63 < 64 := by decide

theorem witness_DepthScalingIsBoundedAndMonotone : 0 ≤ 255 ∧ 255 ≤ 255 ∧ 100 ≤ 100 := by decide

theorem witness_SetWaveformStepsAndRebuilds : (0xFFFE#16 : Half) ≠ 0x0001#16 ∧ (0xFFFE#16 : Half) ≠ 0xFFFF#16 := by
  decide

/-- The ratios at which `SET_DEPTH` changes nothing, and those next to them. -/
theorem witness_SetDepthStepsAndRebuildsOnChange :
    max 0 (min 100 ((100 : Int) + 5 * dirValue .plus)) = 100 ∧ max 0 (min 100 ((0 : Int) + 5 * dirValue .minus)) = 0 ∧
    max 0 (min 100 ((95 : Int) + 5 * dirValue .plus)) = 100 ∧ max 0 (min 100 ((5 : Int) + 5 * dirValue .minus)) = 0 := by
  decide

theorem witness_OnlyTheListedEventsTouchTheTable :
    (∃ t, exec .tap used = .next t) ∧ rebuilds .tap = false ∧
    exec (.setDepth .plus) (withWave .sine 100) = .next (withWave .sine 100) ∧
    exec (.setDepth .minus) (withWave .sine 100) = .next (withWave .sine 95) ∧ rebuilds (.setDepth .minus) = true :=
  ⟨⟨_, rfl⟩, rfl, rfl, rfl, rfl⟩

theorem witness_SetWaveformRoundTripRestoresTheState : Inv used := used_inv

theorem witness_SetDepthRoundTripWithoutClamping :
    (Inv used ∧ used.wave.depthRatio.toNat + 5 * 3 ≤ 100) ∧ Inv start ∧ start.wave.depthRatio = 100 :=
  ⟨⟨used_inv, by decide⟩, start_inv, rfl⟩

theorem witness_SineTableSymmetry : 100 ≤ 100 ∧ 0 ≤ 100 ∧ 255 < 256 ∧ 63 < 64 ∧ 127 < 128 := by decide

theorem witness_RampAndTriangleAreMonotone :
    (0 ≤ 127 ∧ 127 < 256 ∧ 127 ≤ 127) ∧ 128 ≤ 255 ∧ 255 < 256 ∧ 128 ≤ 128 := by decide

/-- `used`'s phase is in step, and its next tick wraps the base accumulator at an index that forces nothing. -/
theorem witness_WrapsAreDetectedExactly :
    Inv used ∧ used.phase.baseTableIndex = phaseIndex used.phase.basePhaseAccumulator ∧
    used.phase.workingTableIndex = phaseIndex used.phase.workingPhaseAccumulator ∧
    2 ^ 32 ≤ used.phase.basePhaseAccumulator.toNat + used.tempo.baseDutyCycle.toNat ∧
    Inv start ∧ start.phase.baseTableIndex = phaseIndex start.phase.basePhaseAccumulator ∧
    start.phase.workingTableIndex = phaseIndex start.phase.workingPhaseAccumulator ∧
    start.phase.basePhaseAccumulator.toNat + start.tempo.baseDutyCycle.toNat < 2 ^ 32 ∧
    (alignTested used.tempo.multiplierAlignmentIndex).toNat % align used.tempo.multiplier ≠ 0 :=
  ⟨used_inv, by decide, by decide, by decide, start_inv, by decide, by decide, by decide, by decide⟩

theorem witness_AlignmentPatternOfBoundaries :
    start.tempo.multiplierAlignmentIndex = 0 ∧ 0 % align start.tempo.multiplier = 0 ∧
    12 % align start.tempo.multiplier = 0 := by decide

/-- `used` with another alignment index. -/
def usedAt (mai : BitVec 4) : State := { used with tempo := { used.tempo with multiplierAlignmentIndex := mai } }

/-- At the end of the twelve boundaries, or at a multiple of `ALIGN`, the next tick is aligned. -/
theorem witness_AlignedBoundaryRestartsTheWorkingPhase :
    ∀ s ∈ [usedAt 12, usedAt 9],
      (s.phase.basePhaseAccumulator.toNat + s.tempo.baseDutyCycle.toNat) % 2 ^ 32 / 2 ^ 24 <
        s.phase.baseTableIndex.toNat ∧
      (alignTested s.tempo.multiplierAlignmentIndex).toNat % align s.tempo.multiplier = 0 := by decide

theorem witness_FirstTickAfterResetSignalsSeesStaleIndexes :
    (Inv staleBase ∧ staleBase.par = Config.defaults ∧ 0 < staleBase.phase.baseTableIndex.toNat ∧
      staleBase.phase.workingTableIndex = 0) ∧
    (Inv staleWorking ∧ staleWorking.par = Config.defaults ∧ staleWorking.phase.baseTableIndex = 0 ∧
      0 < staleWorking.phase.workingTableIndex.toNat) ∧
    Instr.tap ∈ [Instr.tap, .syncRise, .syncFall] :=
  ⟨⟨staleBase_inv, rfl, by decide, rfl⟩, ⟨staleWorking_inv, rfl, rfl, by decide⟩, by decide⟩

theorem witness_RandomOutputIsTheLatchedLevel : Inv used ∧ used.wave.waveform = .random := ⟨used_inv, rfl⟩

theorem witness_DutyFitsAndFallsWithThePeriod :
    start.par.Ok ∧ start.par.lfoMaxTempo ≤ 50 ∧ 50 ≤ 51 ∧ start.par.lfoMaxTempo ≤ 10000 ∧ 10000 ≤ 10000 :=
  ⟨start_ok, by decide⟩

/-- Both ends of the range and of the hysteresis. -/
theorem witness_SetBaseTempoCommitsOrLeavesAll :
    start.par.Ok ∧ (∀ ms ∈ [51, 9999, 997, 1003], Commits start.par start.tempo.baseTempo ms) ∧
    ∀ ms ∈ [0, 50, 10000, 65535, 998, 1002], ¬ Commits start.par start.tempo.baseTempo ms :=
  ⟨start_ok, by decide⟩

/-- Both ends of the closed range, and the two values outside it. -/
theorem witness_AdjustSpeedTrimsOrOnlyClearsTheIdleCounter :
    Inv start ∧
    (∀ delta ∈ [(-950 : Int), 9000], (50 : Int) ≤ effectiveTempo start.tempo + delta ∧
      effectiveTempo start.tempo + delta ≤ 10000) ∧
    ∀ delta ∈ [(-951 : Int), 9001], ¬ ((50 : Int) ≤ effectiveTempo start.tempo + delta ∧
      effectiveTempo start.tempo + delta ≤ 10000) :=
  ⟨start_inv, by decide⟩

theorem witness_ResetSpeedAdjustClearsTheTrim : Inv start ∧ start.tempo.tempoAdjustOffset = 0 := ⟨start_inv, rfl⟩

/-- The two ends, at which nothing changes, and a step inside. -/
theorem witness_SetMultiplierStepsAndAdjustsThePhase :
    max 0 (min 9 ((multiplierCode .sixteenth : Int) + dirValue .plus)) = multiplierCode .sixteenth ∧
    max 0 (min 9 ((multiplierCode .whole : Int) + dirValue .minus)) = multiplierCode .whole ∧
    max 0 (min 9 ((multiplierCode .triplet : Int) + dirValue .plus)) ≠ multiplierCode .triplet := by decide

theorem witness_TapStartsOrStopsTheCount :
    start.par.Ok ∧ start.flags.isCountingTempo = false ∧ used.par.Ok ∧ used.flags.isCountingTempo = true :=
  ⟨start_ok, rfl, start_ok, rfl⟩

theorem witness_SyncRiseStopsTheCount : start.par.Ok := start_ok

/-- A stop that seeds, a stop that does not, and an event that is no stop. -/
theorem witness_GeneratorIsSeededOnce :
    SeedsNow start.flags ∧ (∃ t, exec .syncRise start = .next t) ∧
    ¬ SeedsNow used.flags ∧ used.flags.isCountingTempo = true ∧ (∃ t, exec .tap used = .next t) ∧
    start.flags.isCountingTempo = false ∧ (∃ t, exec .tap start = .next t) ∧ ∃ t, exec .sampleTick start = .next t :=
  ⟨by decide, ⟨_, rfl⟩, by decide, rfl, ⟨_, rfl⟩, rfl, ⟨_, rfl⟩, ⟨_, rfl⟩⟩

theorem witness_TwoTapsCommitTheMeasuredInterval :
    Inv start ∧ start.flags.isCountingTempo = false ∧ (start.par.lfoMaxTempo < 51 ∧ 51 < start.par.lfoMinTempo) ∧
    (start.par.lfoMaxTempo < 9999 ∧ 9999 < start.par.lfoMinTempo) ∧
    ((998 : Int) - (start.tempo.baseTempo.toNat : Int)).natAbs ≤ 2 ∧
    ¬ ((997 : Int) - (start.tempo.baseTempo.toNat : Int)).natAbs ≤ 2 :=
  ⟨start_inv, rfl, by decide⟩

theorem witness_UnfinishedTapTimesOut :
    Inv start ∧ start.flags.isCountingTempo = false ∧ 10000 ≤ start.par.lfoMinTempo ∧ start.par.lfoMinTempo < 10001 :=
  ⟨start_inv, rfl, by decide⟩

theorem witness_HoldTimerExpiresOnTime :
    used.par.Ok ∧ 2 < used.par.modeResetMinTime ∧ 3 = used.par.modeResetMinTime := ⟨start_ok, by decide⟩

theorem witness_IllegalFlagIsSticky :
    (∃ t, exec .syncFall used = .next t) ∧ Instr.syncFall ≠ .clearStatus ∧
    decode .ext 0xFF00FFFF#32 = .error .unknownOpcode ∧ (∃ t, exec .clearStatus used = .next t) ∧
    (nextInputs (withPins used resetPins)).rst = true ∧ ∃ t, step (withPins used resetPins) = .next t :=
  ⟨⟨_, rfl⟩, by decide, by decide, ⟨_, rfl⟩, rfl, _, rfl⟩

end Sys2Proof.Tests
end

section
/-! SUPPORT. The readback map (spec/10_state.md R46): the bits of its flag words, the rows that combine two registers,
and the two address ranges without rows of their own. -/

namespace Sys2Proof.Machine

/-! ### Words made of flags -/

@[simp] theorem testBit_flagBit (b : Bool) (i k : Nat) : (flagBit b i).testBit k = (k == i && b) := by
  cases b
  · simp [flagBit]
  · rw [Bool.eq_iff_iff]
    simpa [flagBit, Nat.testBit_two_pow] using eq_comm

theorem flagBit_le (b : Bool) (i : Nat) : flagBit b i ≤ 2 ^ i := by
  cases b <;> simp [flagBit]

/-- A flag placed above the bits of a number is or-ed into it. -/
theorem testBit_add_flagBit {n i : Nat} (h : n < 2 ^ i) (b : Bool) (k : Nat) :
    (n + flagBit b i).testBit k = (n.testBit k || (k == i && b)) := by
  have hor : n + flagBit b i = n ||| flagBit b i := by
    cases b
    · simp [flagBit]
    · simpa [flagBit, Nat.add_comm, Nat.or_comm] using Nat.two_pow_add_eq_or_of_lt h 1
  rw [hor, Nat.testBit_or, testBit_flagBit]

/-- The bits of `STATUS` (R46, address 0x000). -/
theorem statusWord_getLsbD (f : Flags) (ti : Bool) {k : Nat} (hk : k < 32) :
    (statusWord f ti).getLsbD k =
      ((k == 0 && f.isCountingTempo) || (k == 1 && f.hasReceivedTapInput) || (k == 2 && f.hasRandomSeed) ||
        (k == 3 && f.isCountingModeResetTime) || (k == 4 && f.isResettingMode) || (k == 8 && f.ill) ||
        (k == 9 && ti)) := by
  have h0 := flagBit_le f.isCountingTempo 0
  have h1 := flagBit_le f.hasReceivedTapInput 1
  have h2 := flagBit_le f.hasRandomSeed 2
  have h3 := flagBit_le f.isCountingModeResetTime 3
  have h4 := flagBit_le f.isResettingMode 4
  have h8 := flagBit_le f.ill 8
  unfold statusWord
  rw [BitVec.getLsbD_ofNat, decide_eq_true hk, Bool.true_and, testBit_add_flagBit (by omega),
    testBit_add_flagBit (by omega), testBit_add_flagBit (by omega), testBit_add_flagBit (by omega),
    testBit_add_flagBit (by omega), testBit_add_flagBit (by omega), testBit_flagBit]

/-- A two-bit register four places up, as two flags. -/
theorem two_bits_up (a : BitVec 2) : 16 * a.toNat = flagBit (a.getLsbD 0) 4 + flagBit (a.getLsbD 1) 5 := by
  revert a
  decide

/-- The bits of the synchronizer's word (R46, address 0x015). -/
theorem syncWord_getLsbD (t : Timing) {k : Nat} (hk : k < 32) :
    (BitVec.ofNat 32 (flagBit t.sync1 0 + flagBit t.sync2 1 + flagBit t.sync3 2 + 16 * t.syncArm.toNat)).getLsbD k =
      ((k == 0 && t.sync1) || (k == 1 && t.sync2) || (k == 2 && t.sync3) || (k == 4 && t.syncArm.getLsbD 0) ||
        (k == 5 && t.syncArm.getLsbD 1)) := by
  have h0 := flagBit_le t.sync1 0
  have h1 := flagBit_le t.sync2 1
  have h2 := flagBit_le t.sync3 2
  have h4 := flagBit_le (t.syncArm.getLsbD 0) 4
  rw [BitVec.getLsbD_ofNat, decide_eq_true hk, Bool.true_and, two_bits_up, ← Nat.add_assoc,
    testBit_add_flagBit (by omega), testBit_add_flagBit (by omega), testBit_add_flagBit (by omega),
    testBit_add_flagBit (by omega), testBit_flagBit]

/-! ### Rows of numbers -/

/-- The rows that show two bytes (R46, addresses 0x00C and 0x00F). -/
theorem twoBytes_toNat (hi lo : Byte) : ((hi ++ lo).setWidth 32).toNat = lo.toNat + 2 ^ 8 * hi.toNat := by
  rw [BitVec.toNat_setWidth_of_le (by decide), BitVec.toNat_append, ← Nat.shiftLeft_add_eq_or_of_lt lo.isLt,
    Nat.shiftLeft_eq]
  omega

/-- The row of the effective tempo, where it fits its 16 bits (R46, address 0x003). -/
theorem effectiveRow_toNat {e : Int} (h0 : 0 ≤ e) (h1 : e < 65536) :
    (((BitVec.ofInt 16 e).setWidth 32).toNat : Int) = e := by
  rw [BitVec.toNat_setWidth_of_le (by decide), BitVec.toNat_ofInt]
  omega

theorem depthOffset_le (r : Nat) : depthOffset r ≤ 255 := by
  unfold depthOffset
  omega

/-! ### The addresses above the registers -/

/-- Above the last register the map holds zeros, and from 0x100 on the table (R46). -/
theorem readback_above_registers (s : State) {a : BitVec 9} (h : 0x016 ≤ a.toNat) :
    readback s a = if 0x100 ≤ a.toNat then (readEntry s.wave.depthTable (a.toNat - 0x100)).setWidth 32 else 0 := by
  unfold readback
  generalize a.toNat = n at h
  obtain ⟨m, rfl⟩ := Nat.exists_eq_add_of_le' h
  rfl

/-- The table entries of the map (R46, R61). -/
theorem readback_table (s : State) {a : BitVec 9} (h : 0x100 ≤ a.toNat) :
    (readback s a).toNat = (tableRead s.wave.depthTable (BitVec.ofNat 8 (a.toNat - 0x100))).toNat := by
  have index : (BitVec.ofNat 8 (a.toNat - 0x100)).toNat = a.toNat - 0x100 := by
    have := a.isLt
    rw [BitVec.toNat_ofNat]
    omega
  rw [readback_above_registers s (by omega), if_pos h, BitVec.toNat_setWidth_of_le (by decide), tableRead, index]

/-- Settles O15: each row is the word `readback` gives at its address, and the lemmas above say what the words of each
form show. -/
theorem readbackMapHoldsEveryElement : Obligations.ReadbackMapHoldsEveryElement := by
  intro s
  have codeW := waveformCode_lt s.wave.waveform
  have codeM := multiplierCode_lt s.tempo.multiplier
  have offset := depthOffset_le s.wave.depthRatio.toNat
  refine ⟨
    -- 0x000 to 0x003: the flags and the tempo
    fun k hk => statusWord_getLsbD s.flags s.phase.tempoIndicator hk,
    BitVec.toNat_setWidth_of_le (by decide), BitVec.toInt_signExtend_of_le (by decide), effectiveRow_toNat,
    -- 0x004 to 0x007: the settings
    Nat.mod_eq_of_lt (by omega), Nat.mod_eq_of_lt (by omega), BitVec.toNat_setWidth_of_le (by decide),
    Nat.mod_eq_of_lt (by omega),
    -- 0x008 to 0x00B: the increments and the phases
    rfl, rfl, rfl, rfl,
    -- 0x00C to 0x00F: the indexes and the duty
    twoBytes_toNat _ _, BitVec.toNat_setWidth_of_le (by decide), BitVec.toNat_setWidth_of_le (by decide),
    twoBytes_toNat _ _,
    -- 0x010 to 0x013: the counters
    BitVec.toNat_setWidth_of_le (by decide), BitVec.toNat_setWidth_of_le (by decide),
    BitVec.toNat_setWidth_of_le (by decide), BitVec.toNat_setWidth_of_le (by decide),
    -- 0x014, 0x015: the timing layer
    rfl, fun k hk => syncWord_getLsbD s.timing hk,
    -- above the registers
    fun a lo hi => ?_, fun a => readback_table s⟩
  rw [readback_above_registers s lo, if_neg (by omega)]

end Sys2Proof.Machine
end

section
/-! SUPPORT. The invariant of spec/10_state.md R47: every named procedure keeps it, so every event does, so every trace
does; and both forms of reset establish it. -/

namespace Sys2Proof

/-! ### The constraints on the parameters (R8), by name -/

theorem Params.Ok.lfoMinTempo_le {p : Params} (h : p.Ok) : p.lfoMinTempo ≤ 65534 := h.2.1.2.2.2

theorem Params.Ok.defaultTempo_inRange {p : Params} (h : p.Ok) :
    p.lfoMaxTempo < p.defaultTempo ∧ p.defaultTempo < p.lfoMinTempo := ⟨h.2.1.2.1, h.2.1.2.2.1⟩

theorem Params.Ok.tempoSpan_le {p : Params} (h : p.Ok) : p.lfoMinTempo - p.lfoMaxTempo ≤ 32767 := h.2.2.1

theorem Params.Ok.modeResetMinTime_pos {p : Params} (h : p.Ok) : 0 < p.modeResetMinTime := h.2.2.2.2.1.1

end Sys2Proof

namespace Sys2Proof.Machine

/-! ### The tempo model -/

/-- `Recompute()` after a change of the base tempo and the trim: what every such change has to show is that the tempo
and the effective tempo are in range. -/
theorem recompute_inv {s : State} (h : Inv s) {base trim : Half}
    (range : s.par.lfoMaxTempo < base.toNat ∧ base.toNat < s.par.lfoMinTempo)
    (lower : (s.par.lfoMaxTempo : Int) ≤ base.toNat + trim.toInt)
    (upper : base.toNat + trim.toInt ≤ (s.par.lfoMinTempo : Int)) :
    Inv (recompute { s with tempo := { s.tempo with baseTempo := base, tempoAdjustOffset := trim } }) := by
  have slowest : s.par.lfoMaxTempo ≤ ((base.toNat : Int) + trim.toInt).toNat := by omega
  have duty_eq := duty_toNat h.params slowest
  have room := duty_bound h.params slowest
  rw [← duty_eq] at room
  exact { h with
    baseTempo := range
    effective := ⟨lower, upper⟩
    baseDuty := duty_eq
    workingDuty := workingDuty_toNat room s.tempo.multiplier }

/-- The same with no trim: the base tempo is the effective tempo. -/
theorem recompute_untrimmed_inv {s : State} (h : Inv s) {base : Half}
    (range : s.par.lfoMaxTempo < base.toNat ∧ base.toNat < s.par.lfoMinTempo) :
    Inv (recompute { s with tempo := { s.tempo with baseTempo := base, tempoAdjustOffset := 0 } }) := by
  have no_trim : (0 : Half).toInt = 0 := rfl
  exact recompute_inv h range (by omega) (by omega)

theorem setBaseTempo_inv (ms : Nat) {s : State} (h : Inv s) : Inv (setBaseTempo ms s) := by
  by_cases range : tempoInRange s.par ms
  · by_cases near : tempoRedundant s.tempo.baseTempo ms
    · rwa [setBaseTempo_redundant near]
    · have fits : (BitVec.ofNat 16 ms).toNat = ms := by
        have := h.params.lfoMinTempo_le
        exact Nat.mod_eq_of_lt (by omega)
      rw [setBaseTempo_commit range near]
      exact recompute_untrimmed_inv h (by rwa [fits])
  · rwa [setBaseTempo_out_of_range range]

/-- A base increment the invariant admits leaves room for every ratio. -/
theorem Inv.baseDuty_room {s : State} (h : Inv s) : 4 * s.tempo.baseDutyCycle.toNat ≤ 2 ^ 31 := by
  rw [h.baseDuty]
  have := h.effective
  exact duty_bound h.params (by omega)

theorem changeMultiplier_inv (m : Multiplier) {s : State} (h : Inv s) : Inv (changeMultiplier m s) := by
  by_cases same : m = s.tempo.multiplier
  · rwa [same, changeMultiplier_same]
  · rw [changeMultiplier_ne same]
    exact { h with workingDuty := workingDuty_toNat h.baseDuty_room m }

/-- What `ADJUST_SPEED` does (R156): it clears the idle counter, and trims when the effective tempo stays in range. -/
theorem execAdjustSpeed_cases {delta : Int} {s t : State} (he : exec (.adjustSpeed delta) s = .next t) :
    t = { s with counters := { s.counters with speedAdjustMsCount := 0 } } ∨
    ((s.par.lfoMaxTempo : Int) ≤ effectiveTempo s.tempo + delta ∧
      effectiveTempo s.tempo + delta ≤ (s.par.lfoMinTempo : Int) ∧
      t = recompute
        { s with
          counters := { s.counters with speedAdjustMsCount := 0 }
          tempo := { s.tempo with
            tempoAdjustOffset := BitVec.ofInt 16 (s.tempo.tempoAdjustOffset.toInt + delta) } }) := by
  simp only [exec, execAdjustSpeed] at he
  split at he
  · next rejected => exact .inl (by cases he; rfl)
  · next accepted => exact .inr ⟨by omega, by omega, by cases he; rfl⟩

theorem adjustSpeed_inv {delta : Int} {s t : State} (h : Inv s) (he : exec (.adjustSpeed delta) s = .next t) :
    Inv t := by
  have cleared : Inv { s with counters := { s.counters with speedAdjustMsCount := 0 } } := { h with }
  obtain rfl | ⟨lower, upper, rfl⟩ := execAdjustSpeed_cases he
  · exact cleared
  · have range := h.baseTempo
    have span := h.params.tempoSpan_le
    unfold effectiveTempo at lower upper
    -- The trim is the distance of two tempos in range, which R8 keeps to 16 bits.
    have trim : (BitVec.ofInt 16 (s.tempo.tempoAdjustOffset.toInt + delta)).toInt =
        s.tempo.tempoAdjustOffset.toInt + delta := by
      rw [BitVec.toInt_ofInt, Int.bmod_eq_of_le (by omega) (by omega)]
    rw [add_assoc, ← trim] at lower upper
    exact recompute_inv cleared range lower upper

/-! ### The tap-count state machine -/

theorem resetSignals_inv {s : State} (h : Inv s) : Inv (resetSignals s) := { h with alignIndex := Nat.zero_le _ }

theorem startTempoCount_inv {s : State} (h : Inv s) : Inv (startTempoCount s) :=
  { resetSignals_inv h with
    tempoCount := Nat.zero_le _
    countingCount := fun _ => Nat.zero_le _ }

/-- What `StopTempoCount` hands to `SetBaseTempo` (R182): the count is off, and a tap has been received, so that the
seed flag may be set. -/
theorem stopTempoCount_inv {s : State} (h : Inv s) : Inv (stopTempoCount s) := by
  unfold stopTempoCount
  refine setBaseTempo_inv _ ?_
  rw [seedOnFirstStop_eq]
  exact { resetSignals_inv h with
    countingCount := nofun
    seedFlags := fun _ => rfl }

@[simp] theorem stopTempoCount_par (s : State) : (stopTempoCount s).par = s.par := by simp [stopTempoCount]

/-- What `TAP` does (R184). -/
theorem execTap_cases {s t : State} (he : exec .tap s = .next t) :
    (s.flags.isCountingTempo = false ∧ t = startTempoCount s) ∨
    (s.flags.isCountingTempo = true ∧ t = stopTempoCount s) := by
  simp only [exec, execTap] at he
  split at he
  · next idle => exact .inl ⟨idle, by cases he; rfl⟩
  · next counting => exact .inr ⟨by simpa using counting, by cases he; rfl⟩

/-! ### The tick dispatcher -/

theorem tempoCountStep_inv {s : State} (h : Inv s) : Inv (tempoCountStep s) := by
  have bound := h.params.lfoMinTempo_le
  rw [tempoCountStep_eq]
  by_cases counting : s.flags.isCountingTempo = true
  · have count := h.countingCount counting
    have succ_eq : (s.counters.tempoMsCount + 1).toNat = s.counters.tempoMsCount.toNat + 1 :=
      BitVec.toNat_add_of_lt (by simp; omega)
    exact { h with
      tempoCount := by simp only [counting, if_true, succ_eq]; omega
      countingCount := by simp [counting] }
  · exact { h with
      tempoCount := by simpa [counting] using h.tempoCount
      countingCount := by simp [counting] }

theorem modeHoldStep_inv {s : State} (h : Inv s) : Inv (modeHoldStep s) := by
  have count := h.modeCount
  rw [modeHoldStep_eq]
  split
  · exact { h with
      modeCount := h.params.modeResetMinTime_pos
      modeFlags := fun _ => rfl }
  · next running =>
    refine { h with modeCount := ?_ }
    show (if s.flags.isCountingModeResetTime then _ else _ : Half).toNat < _
    split
    · next counting => exact Nat.lt_of_not_le fun expired => running ⟨counting, expired⟩
    · exact count

theorem speedIdleStep_inv {s : State} (h : Inv s) : Inv (speedIdleStep s) := by
  rw [speedIdleStep_eq]
  exact { h with }

theorem emitDebounceReq_inv {s : State} (h : Inv s) : Inv (emitDebounceReq s) := { h with }

theorem modeHoldCleared_inv {s : State} (h : Inv s) (counting : Bool) :
    Inv { s with
      flags := { s.flags with isCountingModeResetTime := counting, isResettingMode := false }
      counters := { s.counters with modeResetMsCount := 0 } } :=
  { h with
    modeCount := h.params.modeResetMinTime_pos
    modeFlags := nofun }

/-! ### The sample tick -/

theorem baseStep_inv {s : State} (h : Inv s) : Inv (baseStep s) := { h with }

theorem workingStep_inv {s : State} (h : Inv s) : Inv (workingStep s) := { h with }

theorem outputStep_inv {s : State} (h : Inv s) : Inv (outputStep s) := { h with }

theorem alignWaveform_inv {s : State} (h : Inv s) : Inv (alignWaveform s) := by
  have tested := alignTested_le s.tempo.multiplierAlignmentIndex
  have succ_le : (alignTested s.tempo.multiplierAlignmentIndex + 1).toNat ≤ 12 := by
    rw [BitVec.toNat_add_of_lt (by simp; omega)]
    simp; omega
  exact { h with alignIndex := succ_le }

theorem boundaryStep_inv (prevBase : Byte) {s : State} (h : Inv s) : Inv (boundaryStep prevBase s) := by
  unfold boundaryStep
  split
  · exact alignWaveform_inv { h with }
  · exact h

theorem drawStep_inv (prevWork : Byte) {s : State} (h : Inv s) : Inv (drawStep prevWork s) := by
  unfold drawStep
  split
  · have level (d : Fin 8) : (BitVec.ofNat 8 (32 * d.val)).toNat % 32 = 0 := by
      rw [BitVec.toNat_ofNat]
      omega
    exact { h with random := level _ }
  · exact h

/-! ### The waveform table builder -/

/-- `BuildTable()` after a change of the settings. -/
theorem buildTable_inv {s : State} (h : Inv s) {wave : Wave}
    (depth : wave.depthRatio.toNat ≤ 100 ∧ wave.depthRatio.toNat % 5 = 0) :
    Inv (buildTable { s with wave := wave }) :=
  { h with
    depthRatio := depth
    table := rfl }

theorem fullDepth_legal : (100 : BitVec 7).toNat ≤ 100 ∧ (100 : BitVec 7).toNat % 5 = 0 := by decide

/-- A step of a legal depth is a legal depth (R38, R113). -/
theorem stepDepth_legal {r : BitVec 7} (h : r.toNat ≤ 100 ∧ r.toNat % 5 = 0) (d : Dir) :
    (stepDepth r d).toNat ≤ 100 ∧ (stepDepth r d).toNat % 5 = 0 := by
  have value := stepDepth_toInt r d
  unfold clamp at value
  cases d <;> simp only [dirValue] at value <;> omega

/-- What `SET_DEPTH` does (R113). -/
theorem execSetDepth_cases {d : Dir} {s t : State} (he : exec (.setDepth d) s = .next t) :
    (stepDepth s.wave.depthRatio d = s.wave.depthRatio ∧ t = s) ∨
    (stepDepth s.wave.depthRatio d ≠ s.wave.depthRatio ∧
      t = buildTable { s with wave := { s.wave with depthRatio := stepDepth s.wave.depthRatio d } }) := by
  simp only [exec, execSetDepth] at he
  split at he
  · next same => exact .inl ⟨same, by cases he; rfl⟩
  · next changed => exact .inr ⟨changed, by cases he; rfl⟩

/-! ### Events and traces -/

theorem illegalEvent_inv {s : State} (h : Inv s) : Inv (illegalEvent s) := { h with }

/-- Every event keeps the invariant, whatever its operand. -/
theorem exec_inv {i : Instr} {s t : State} (h : Inv s) (he : exec i s = .next t) : Inv t := by
  cases i with
  | nop => cases he; exact h
  | setWaveform dir => cases he; exact buildTable_inv h h.depthRatio
  | resetWaveform => cases he; exact buildTable_inv h h.depthRatio
  | setMultiplier dir => cases he; exact changeMultiplier_inv _ h
  | resetMultiplier => cases he; exact changeMultiplier_inv _ h
  | setDepth dir =>
    obtain ⟨_, rfl⟩ | ⟨_, rfl⟩ := execSetDepth_cases he
    · exact h
    · exact buildTable_inv h (stepDepth_legal h.depthRatio dir)
  | resetDepth => cases he; exact buildTable_inv h fullDepth_legal
  | adjustSpeed delta => exact adjustSpeed_inv h he
  | resetSpeedAdjust => cases he; exact recompute_untrimmed_inv h h.baseTempo
  | setBaseTempo ms => cases he; exact setBaseTempo_inv ms h
  | tap =>
    obtain ⟨_, rfl⟩ | ⟨_, rfl⟩ := execTap_cases he
    · exact startTempoCount_inv h
    · exact stopTempoCount_inv h
  | modeHoldStart => cases he; exact modeHoldCleared_inv h true
  | modeHoldEnd => cases he; exact modeHoldCleared_inv h false
  | clearStatus => cases he; exact { h with }
  | sampleTick =>
    cases he
    exact drawStep_inv _ (outputStep_inv (workingStep_inv (boundaryStep_inv _ (baseStep_inv h))))
  | msTick =>
    cases he
    exact speedIdleStep_inv (modeHoldStep_inv (tempoCountStep_inv (emitDebounceReq_inv h)))
  | syncRise => cases he; exact stopTempoCount_inv h
  | syncFall => cases he; exact startTempoCount_inv h

/-- No event writes a parameter (R72). -/
theorem exec_par {i : Instr} {s t : State} (he : exec i s = .next t) : t.par = s.par := by
  cases i with
  | setDepth dir => obtain ⟨_, rfl⟩ | ⟨_, rfl⟩ := execSetDepth_cases he <;> rfl
  | adjustSpeed delta => obtain rfl | ⟨_, _, rfl⟩ := execAdjustSpeed_cases he <;> rfl
  | tap => obtain ⟨_, rfl⟩ | ⟨_, rfl⟩ := execTap_cases he <;> simp
  | _ => cases he; simp

/-- What every event and `IllegalEvent()` keep, every trace keeps. -/
theorem runTrace_keeps {P : State → Prop} (event : ∀ {i s t}, P s → exec i s = .next t → P t)
    (illegal : ∀ {s}, P s → P (illegalEvent s)) {xs : List TraceItem} {s t : State} (h : P s)
    (hr : runTrace xs s = .next t) : P t := by
  induction xs generalizing s with
  | nil => cases hr; exact h
  | cons x xs ih =>
    obtain ⟨u, first, rest⟩ := andThen_eq_next.mp hr
    refine ih ?_ rest
    cases x with
    | event i => exact event h first
    | word w =>
      cases decoded : decode .ext w with
      | ok i => exact event h ((applyWord_ok decoded s).symm.trans first)
      | error r =>
        obtain rfl := Host.Outcome.next.inj ((applyWord_error decoded s).symm.trans first)
        exact illegal h

theorem runTrace_inv {xs : List TraceItem} {s t : State} (h : Inv s) (hr : runTrace xs s = .next t) : Inv t :=
  runTrace_keeps exec_inv illegalEvent_inv h hr

theorem runTrace_par {xs : List TraceItem} {s t : State} (hr : runTrace xs s = .next t) : t.par = s.par :=
  runTrace_keeps (P := fun u => u.par = s.par) (fun kept he => (exec_par he).trans kept) id rfl hr

/-! ### Reset -/

/-- A reset establishes the invariant for any legal parameters (R47, R280, R282). -/
theorem resetRegisters_inv {s : State} (h : s.par.Ok) : Inv (resetRegisters s) := by
  obtain ⟨fastest, slowest⟩ := h.defaultTempo_inRange
  have fits := h.lfoMinTempo_le
  have tempo : (BitVec.ofNat 16 s.par.defaultTempo).toNat = s.par.defaultTempo :=
    Nat.mod_eq_of_lt (by omega)
  have effective : effectiveTempo (resetRegisters s).tempo = s.par.defaultTempo :=
    effectiveTempo_commit (by omega) State.reset.tempo
  have duty := duty_toNat h fastest.le
  have room := duty_bound h fastest.le
  exact
    { params := h
      baseTempo := by
        show _ < (BitVec.ofNat 16 s.par.defaultTempo).toNat ∧ (BitVec.ofNat 16 s.par.defaultTempo).toNat < _
        rw [tempo]
        exact ⟨fastest, slowest⟩
      effective := by
        rw [effective, resetRegisters_par]
        omega
      baseDuty := by
        rw [effective]
        exact duty
      workingDuty := workingDuty_toNat (by rw [duty]; exact room) .quarter
      alignIndex := Nat.zero_le _
      depthRatio := fullDepth_legal
      table := rfl
      random := rfl
      tempoCount := Nat.zero_le _
      countingCount := nofun
      modeCount := h.modeResetMinTime_pos
      modeFlags := nofun
      seedFlags := nofun
      msCounter := msDiv_pos h }

/-- `State.reset` is what a reset gives at the default parameters (R282). -/
theorem resetRegisters_reset : resetRegisters State.reset = State.reset := by
  have table : builtTable State.reset.par.sineQ .sine 100 = [] := builtTable_default
  unfold resetRegisters
  rw [table]
  rfl

theorem reset_inv : Inv State.reset := by
  rw [← resetRegisters_reset]
  exact resetRegisters_inv defaults_ok

theorem resetCycle_inv {s t : State} (h : s.par.Ok) (hrst : (nextInputs s).rst = true) (hs : step s = .next t) :
    Inv t := by
  obtain rfl := Host.Outcome.next.inj ((cycle_reset hrst (dropInputs s)).symm.trans hs)
  exact resetRegisters_inv h

/-! ### The table of a legal state -/

theorem sineEntry_le (q : List Byte) (i : Nat) : sineEntry q i ≤ 255 := Nat.le_of_lt_succ (BitVec.isLt _)

theorem shape_le (q : List Byte) (w : Waveform) {i : Nat} (h : i < 256) : shape q w i ≤ 255 := by
  cases w with
  | sine =>
    have rising := sineEntry_le q i
    have falling := sineEntry_le q (255 - i)
    simp only [shape, sineShape]
    split_ifs <;> omega
  | rampUp => simp only [shape]; omega
  | rampDown => simp only [shape]; omega
  | triangle => simp only [shape]; split <;> omega
  | square => simp only [shape]; split <;> omega
  | quadPulse => simp only [shape]; split <;> omega
  | random => simp only [shape]; omega

/-- A scaled sample lies between the depth offset and 255 (R109). -/
theorem calcSignalDepth_bounds {v r : Nat} (hv : v ≤ 255) (hr : r ≤ 100) :
    depthOffset r ≤ calcSignalDepth v r ∧ calcSignalDepth v r ≤ 255 := by
  have scaled : v * r ≤ 255 * r := Nat.mul_le_mul_right r hv
  unfold calcSignalDepth depthOffset
  split <;> omega

/-- Entries of a table in legal use are not cut to their byte (R47 item 5). -/
theorem depthOffset_le_tableEntry (q : List Byte) (w : Waveform) {r i : Nat} (hr : r ≤ 100) (hi : i < 256) :
    depthOffset r ≤ (tableEntry q w r i).toNat := by
  obtain ⟨lower, upper⟩ := calcSignalDepth_bounds (shape_le q w hi) hr
  rw [tableEntry, BitVec.toNat_ofNat, Nat.mod_eq_of_lt (by omega)]
  exact lower

theorem Inv.tableRead_eq {s : State} (h : Inv s) (i : Byte) :
    tableRead s.wave.depthTable i = tableEntry s.par.sineQ s.wave.waveform s.wave.depthRatio.toNat i.toNat := by
  rw [h.table, tableRead_builtTable]

/-- Settles O22: both forms of reset establish the invariant, a trace keeps it and the parameters, and it holds the
nine clauses. -/
theorem reachedStatesSatisfyTheNineClauses : Obligations.ReachedStatesSatisfyTheNineClauses := by
  intro r t xs hreset hrun
  have start : Inv r := by
    obtain rfl | ⟨s, legal, hrst, hs⟩ := hreset
    · exact reset_inv
    · exact resetCycle_inv legal hrst hs
  have inv : Inv t := runTrace_inv start hrun
  rw [← runTrace_par hrun]
  refine ⟨inv.baseTempo, inv.workingDuty, inv.alignIndex, inv.tableRead_eq, fun i => ?_, inv.random, inv.tempoCount,
    inv.modeFlags, inv.seedFlags⟩
  rw [inv.tableRead_eq]
  exact depthOffset_le_tableEntry _ _ inv.depthRatio.1 i.isLt

end Sys2Proof.Machine
end

section
/-! SUPPORT. The two laws of spec/20_memory.md settled here: the table memory in its canonical form is determined by
what it reads as (R61, log 9), and the readback address reaches nothing but the word read (R66). -/

namespace Sys2Proof.Machine

/-! ### The canonical table memory (R61) -/

/-- The cells of a canonical memory: the entries that do not read as unlisted, each with what it reads as. -/
theorem mem_iff_of_memoryWf {m : Memory} (hm : memoryWf m) {c : Host.Cell} :
    c ∈ m ↔ c.1 < 256 ∧ c.2 = readEntry m c.1 ∧ readEntry m c.1 ≠ unlisted c.1 := by
  constructor
  · intro hc
    obtain ⟨inTable, notReset⟩ := hm.2 c hc
    rw [readEntry_of_listed hm.1 hc]
    exact ⟨inTable, rfl, notReset⟩
  · rintro ⟨_, content, notReset⟩
    have listed : ∃ d ∈ m, d.1 = c.1 := by
      by_contra absent
      exact notReset (readEntry_of_not_listed fun d hd hdc => absent ⟨d, hd, hdc⟩)
    obtain ⟨d, hd, hdc⟩ := listed
    have same : d = c := Prod.ext hdc (by rw [content, ← hdc, readEntry_of_listed hm.1 hd])
    rwa [← same]

/-- Settles O23: what a canonical memory reads as says which cells it lists, and their order is forced. -/
theorem canonicalMemoriesReadingEqualAreEqual : Obligations.CanonicalMemoriesReadingEqualAreEqual := by
  intro m n hm hn reads
  refine List.Pairwise.eq_of_mem_iff (r := InvImage (· < ·) Prod.fst) hm.1 hn.1 fun c => ?_
  rw [mem_iff_of_memoryWf hm, mem_iff_of_memoryWf hn]
  exact and_congr_right fun inTable => by rw [reads c.1 inTable]

/-! ### Blanked outcomes (R66)

`blankReads` blanks what the readback address can touch. Every operation gives on the blanked state what it gives on
the state itself, blanked. -/

/-- An outcome with its next state blanked. -/
def thenBlank (o : Host.Outcome State Fault Refusal) : Host.Outcome State Fault Refusal :=
  andThen o (fun t => .next (blankReads t))

theorem thenBlank_next (s : State) : thenBlank (.next s) = .next (blankReads s) := rfl

theorem thenBlank_eq_next {o : Host.Outcome State Fault Refusal} {u : State} :
    thenBlank o = .next u ↔ ∃ t, o = .next t ∧ blankReads t = u := by
  simp [thenBlank, andThen_eq_next]

/-- What follows an outcome may be run on its blanked state, when it itself goes unaffected by blanking. -/
theorem thenBlank_andThen {f : State → Host.Outcome State Fault Refusal}
    (hf : ∀ s, f (blankReads s) = thenBlank (f s)) (o : Host.Outcome State Fault Refusal) :
    thenBlank (andThen o f) = andThen (thenBlank o) f := by
  cases o with
  | next s => exact (hf s).symm
  | fault r => rfl
  | refused r => rfl

/-! ### The named procedures and the events -/

theorem changeMultiplier_blankReads (m : Multiplier) (s : State) :
    changeMultiplier m (blankReads s) = blankReads (changeMultiplier m s) := by
  by_cases same : m = s.tempo.multiplier
  · subst same
    exact (changeMultiplier_same (blankReads s)).trans (congrArg blankReads (changeMultiplier_same s)).symm
  · rw [changeMultiplier_ne same, changeMultiplier_ne (s := blankReads s) same]
    rfl

theorem setBaseTempo_blankReads (ms : Nat) (s : State) :
    setBaseTempo ms (blankReads s) = blankReads (setBaseTempo ms s) := by
  by_cases range : tempoInRange s.par ms
  · by_cases near : tempoRedundant s.tempo.baseTempo ms
    · rw [setBaseTempo_redundant near, setBaseTempo_redundant (s := blankReads s) near]
    · rw [setBaseTempo_commit range near, setBaseTempo_commit (s := blankReads s) range near]
      rfl
  · rw [setBaseTempo_out_of_range range, setBaseTempo_out_of_range (s := blankReads s) range]

theorem stopTempoCount_blankReads (s : State) : stopTempoCount (blankReads s) = blankReads (stopTempoCount s) := by
  simp only [stopTempoCount, seedOnFirstStop_eq, ← setBaseTempo_blankReads]
  rfl

theorem boundaryStep_blankReads (prevBase : Byte) (s : State) :
    boundaryStep prevBase (blankReads s) = blankReads (boundaryStep prevBase s) := by
  simp only [boundaryStep, apply_ite blankReads]
  rfl

theorem drawStep_blankReads (prevWork : Byte) (s : State) :
    drawStep prevWork (blankReads s) = blankReads (drawStep prevWork s) := by
  simp only [drawStep, apply_ite blankReads]
  rfl

theorem tempoCountStep_blankReads (s : State) : tempoCountStep (blankReads s) = blankReads (tempoCountStep s) := by
  simp only [tempoCountStep_eq]
  rfl

theorem modeHoldStep_blankReads (s : State) : modeHoldStep (blankReads s) = blankReads (modeHoldStep s) := by
  simp only [modeHoldStep_eq, apply_ite blankReads]
  rfl

theorem speedIdleStep_blankReads (s : State) : speedIdleStep (blankReads s) = blankReads (speedIdleStep s) := by
  simp only [speedIdleStep_eq]
  rfl

/-- No event sees the readback addresses or the word read, or writes them. -/
theorem exec_blankReads (i : Instr) (s : State) : exec i (blankReads s) = thenBlank (exec i s) := by
  cases i with
  | setMultiplier dir => exact congrArg Host.Outcome.next (changeMultiplier_blankReads _ s)
  | resetMultiplier => exact congrArg Host.Outcome.next (changeMultiplier_blankReads _ s)
  | setDepth dir =>
    simp only [exec, execSetDepth, apply_ite thenBlank]
    rfl
  | adjustSpeed delta =>
    simp only [exec, execAdjustSpeed, apply_ite thenBlank]
    rfl
  | setBaseTempo ms => exact congrArg Host.Outcome.next (setBaseTempo_blankReads ms s)
  | tap =>
    simp only [exec, execTap, stopTempoCount_blankReads, apply_ite thenBlank]
    rfl
  | syncRise => exact congrArg Host.Outcome.next (stopTempoCount_blankReads s)
  | sampleTick =>
    refine congrArg Host.Outcome.next ?_
    show drawStep _ (outputStep (workingStep (boundaryStep _ (blankReads (baseStep s))))) = _
    rw [boundaryStep_blankReads, ← drawStep_blankReads]
    rfl
  | msTick =>
    refine congrArg Host.Outcome.next ?_
    rw [← speedIdleStep_blankReads, ← modeHoldStep_blankReads, ← tempoCountStep_blankReads]
    rfl
  | _ => rfl

/-! ### A cycle -/

theorem applyWord_blankReads (e : EventWord) (s : State) : applyWord e (blankReads s) = thenBlank (applyWord e s) := by
  obtain ⟨src, word⟩ := e
  cases decoded : decode src word with
  | ok i => rw [applyWord_ok decoded, applyWord_ok decoded, exec_blankReads]
  | error r => rw [applyWord_error decoded, applyWord_error decoded]; rfl

theorem applyWords_blankReads (es : List EventWord) (s : State) :
    applyWords es (blankReads s) = thenBlank (applyWords es s) := by
  induction es generalizing s with
  | nil => rfl
  | cons e es ih => rw [applyWords_cons, applyWords_cons, applyWord_blankReads, thenBlank_andThen ih]

/-- The events of a cycle and the updates after them, on a blanked state. -/
theorem thenBlank_runAndClose (es : List EventWord) (inp : Inputs) (s : State) :
    thenBlank (andThen (applyWords es s) (fun t => .next (closeCycle inp t))) =
      andThen (applyWords es (blankReads s)) (fun t => .next (closeCycle inp t)) := by
  rw [applyWords_blankReads]
  exact thenBlank_andThen (fun _ => rfl) (applyWords es s)

/-- The pins of a cycle with the readback address blanked. -/
def Inputs.blankAddr (inp : Inputs) : Inputs := { inp with rdAddr := 0 }

/-- Of what a cycle opens with, only the word read depends on the readback address. -/
theorem openCycle_blankReads (inp : Inputs) (s : State) :
    blankReads (openCycle inp.blankAddr (blankReads s)) = blankReads (openCycle inp s) := by
  simp [blankReads, openCycle, Inputs.blankAddr]

theorem nextInputs_blankReads (s : State) : nextInputs (blankReads s) = (nextInputs s).blankAddr := by
  unfold nextInputs blankReads
  cases s.inputs <;> rfl

theorem dropInputs_blankReads (s : State) : dropInputs (blankReads s) = blankReads (dropInputs s) := by
  simp [dropInputs, blankReads]

/-- A cycle, with or without reset, differs only where blanking reaches when its readback address is blanked. -/
theorem cycle_blankReads (inp : Inputs) (s : State) :
    thenBlank (cycle inp.blankAddr (blankReads s)) = thenBlank (cycle inp s) := by
  cases hrst : inp.rst with
  | true =>
    rw [cycle_reset hrst, cycle_reset (inp := inp.blankAddr) hrst]
    exact congrArg (fun t => Host.Outcome.next (resetRegisters t)) (openCycle_blankReads inp s)
  | false =>
    have events : cycleEvents inp.blankAddr (blankReads s) = cycleEvents inp s := rfl
    rw [cycle_run hrst, cycle_run (inp := inp.blankAddr) hrst, events, thenBlank_runAndClose, openCycle_blankReads,
      thenBlank_runAndClose]
    rfl

theorem step_blankReads (s : State) : thenBlank (step (blankReads s)) = thenBlank (step s) := by
  unfold step
  rw [nextInputs_blankReads, dropInputs_blankReads, cycle_blankReads]

/-- Settles O11: a step ends, up to blanking, as the step of the blanked state does, and the two states have the same
blanked state. -/
theorem readbackHasNoSideEffect : Obligations.ReadbackHasNoSideEffect := by
  intro s t s' same hs
  have both : thenBlank (step t) = .next (blankReads s') := by
    calc thenBlank (step t) = thenBlank (step (blankReads t)) := (step_blankReads t).symm
      _ = thenBlank (step (blankReads s)) := by rw [same]
      _ = thenBlank (step s) := step_blankReads s
      _ = .next (blankReads s') := by rw [hs, thenBlank_next]
  obtain ⟨t', ht, blanked⟩ := thenBlank_eq_next.mp both
  exact ⟨t', ht, blanked.symm⟩

end Sys2Proof.Machine
end

section
/-! SUPPORT. The event words (spec/30_encoding.md): the rows of the opcode map by operand format, which words of each
row are legal, and the two round trips between events and words. -/

namespace Sys2Proof

/-! ### The opcode map by format (R83, R84) -/

/-- The opcodes of formats `Z` and `I`, which carry no operand. -/
def bareOpcodes : List Nat :=
  [0x00, 0x02, 0x04, 0x06, 0x08, 0x0A, 0x0B, 0x0C, 0x0D, 0x80, 0x81, 0x82, 0x83]

/-- The opcodes of format `D`. -/
def dirOpcodes : List Nat := [0x01, 0x03, 0x05]

theorem opcodeKnown_iff {opc : Nat} :
    opcodeKnown opc = true ↔ opc ∈ bareOpcodes ∨ opc ∈ dirOpcodes ∨ opc = 0x07 ∨ opc = 0x09 := by
  simp only [opcodeKnown, Bool.or_eq_true, Bool.and_eq_true, decide_eq_true_eq, bareOpcodes, dirOpcodes, List.mem_cons,
    List.not_mem_nil, or_false]
  omega

/-- The event of a row of format `Z` or `I`. -/
theorem bareOpcode_row {opc : Nat} (h : opc ∈ bareOpcodes) :
    ∃ e : Instr, (∀ imm, decodeOpcode opc imm = readNone imm e) ∧ e.wellFormed = true ∧
      encode e = eventWord (BitVec.ofNat 8 opc) 0 := by
  simp only [bareOpcodes, List.mem_cons, List.not_mem_nil, or_false] at h
  rcases h with rfl | rfl | rfl | rfl | rfl | rfl | rfl | rfl | rfl | rfl | rfl | rfl | rfl
  all_goals exact ⟨_, fun _ => rfl, rfl, rfl⟩

/-- The events of a row of format `D`. -/
theorem dirOpcode_row {opc : Nat} (h : opc ∈ dirOpcodes) :
    ∃ f : Dir → Instr, (∀ imm, decodeOpcode opc imm = readDir imm f) ∧ (∀ d, (f d).wellFormed = true) ∧
      ∀ d, encode (f d) = eventWord (BitVec.ofNat 8 opc) (dirImm d) := by
  simp only [dirOpcodes, List.mem_cons, List.not_mem_nil, or_false] at h
  rcases h with rfl | rfl | rfl
  all_goals exact ⟨_, fun _ => rfl, fun _ => rfl, fun _ => rfl⟩

theorem decodeOpcode_adjustSpeed (imm : Half) : decodeOpcode 0x07 imm = .ok (.adjustSpeed imm.toInt) := rfl

theorem decodeOpcode_setBaseTempo (imm : Half) : decodeOpcode 0x09 imm = .ok (.setBaseTempo imm.toNat) := rfl

/-- Format `S` carries every `IMM16` (R83). -/
theorem adjustSpeed_wellFormed (imm : Half) : (Instr.adjustSpeed imm.toInt).wellFormed = true := by
  have lower := BitVec.le_toInt imm
  have upper := BitVec.toInt_lt (x := imm)
  simp only [Instr.wellFormed, decide_eq_true_eq, DeltaInRange]
  omega

/-- Format `U` carries every `IMM16` (R83). -/
theorem setBaseTempo_wellFormed (imm : Half) : (Instr.setBaseTempo imm.toNat).wellFormed = true := by
  have := imm.isLt
  simp only [Instr.wellFormed, decide_eq_true_eq, MsInRange]
  omega

theorem encode_adjustSpeed (imm : Half) : encode (.adjustSpeed imm.toInt) = eventWord 0x07#8 imm := by
  simp only [encode, BitVec.ofInt_toInt]

theorem encode_setBaseTempo (imm : Half) : encode (.setBaseTempo imm.toNat) = eventWord 0x09#8 imm := by
  simp only [encode, BitVec.ofNat_toNat, BitVec.setWidth_eq]

/-! ### Rows and their operands -/

/-- What a row of the map is read as, is well formed and encoded by that row. -/
theorem decodeOpcode_ok {opc : Nat} {imm : Half} {i : Instr} (known : opcodeKnown opc = true)
    (h : decodeOpcode opc imm = .ok i) : i.wellFormed = true ∧ encode i = eventWord (BitVec.ofNat 8 opc) imm := by
  obtain bare | dir | rfl | rfl := opcodeKnown_iff.mp known
  · obtain ⟨e, reads, wf, word⟩ := bareOpcode_row bare
    obtain ⟨rfl, rfl⟩ := readNone_ok (reads imm ▸ h)
    exact ⟨wf, word⟩
  · obtain ⟨f, reads, wf, word⟩ := dirOpcode_row dir
    obtain ⟨d, rfl, rfl⟩ := readDir_ok (reads imm ▸ h)
    exact ⟨wf d, word d⟩
  · cases h
    exact ⟨adjustSpeed_wellFormed imm, encode_adjustSpeed imm⟩
  · cases h
    exact ⟨setBaseTempo_wellFormed imm, encode_setBaseTempo imm⟩

/-- The fields of an event's word are read as the event when the row of the map they name is. -/
theorem decodeOpcode_of_encode_eq {i : Instr} {opc : Byte} {imm : Half} (word : encode i = eventWord opc imm)
    (row : decodeOpcode opc.toNat imm = .ok i) :
    decodeOpcode (opcField (encode i)).toNat (immField (encode i)) = .ok i := by
  rwa [word, opcField_eventWord, immField_eventWord]

/-- The fields of a well-formed event's word are read as that event. -/
theorem decodeOpcode_encode {i : Instr} (wf : i.wellFormed = true) :
    decodeOpcode (opcField (encode i)).toNat (immField (encode i)) = .ok i := by
  cases i with
  | setWaveform d => exact decodeOpcode_of_encode_eq rfl (readDir_dirImm d .setWaveform)
  | setMultiplier d => exact decodeOpcode_of_encode_eq rfl (readDir_dirImm d .setMultiplier)
  | setDepth d => exact decodeOpcode_of_encode_eq rfl (readDir_dirImm d .setDepth)
  | adjustSpeed delta =>
    simp only [Instr.wellFormed, decide_eq_true_eq, DeltaInRange] at wf
    have fits : (BitVec.ofInt 16 delta).toInt = delta :=
      BitVec.toInt_ofInt_eq_self (by decide) (by omega) (by omega)
    exact decodeOpcode_of_encode_eq rfl ((decodeOpcode_adjustSpeed _).trans (by rw [fits]))
  | setBaseTempo ms =>
    simp only [Instr.wellFormed, decide_eq_true_eq, MsInRange] at wf
    have fits : (BitVec.ofNat 16 ms).toNat = ms := Nat.mod_eq_of_lt (by omega)
    exact decodeOpcode_of_encode_eq rfl ((decodeOpcode_setBaseTempo _).trans (by rw [fits]))
  | _ => exact decodeOpcode_of_encode_eq rfl rfl

/-- Formats `Z` and `I` admit `IMM16 = 0` only (R83). -/
theorem readNone_legal_iff {imm : Half} {e : Instr} : (∃ i, readNone imm e = .ok i) ↔ imm = 0x0000#16 := by
  constructor
  · rintro ⟨i, h⟩
    exact (readNone_ok h).1
  · rintro rfl
    exact ⟨e, rfl⟩

/-- Format `D` admits two operands (R83). -/
theorem readDir_legal_iff {imm : Half} {f : Dir → Instr} :
    (∃ i, readDir imm f = .ok i) ↔ imm = 0x0001#16 ∨ imm = 0xFFFF#16 := by
  constructor
  · rintro ⟨i, h⟩
    obtain ⟨d, rfl, -⟩ := readDir_ok h
    cases d
    · exact .inl rfl
    · exact .inr rfl
  · rintro (rfl | rfl)
    · exact ⟨_, readDir_dirImm .plus f⟩
    · exact ⟨_, readDir_dirImm .minus f⟩

theorem bareOpcodes_disjoint : ∀ opc ∈ bareOpcodes, opc ∉ dirOpcodes := by decide

/-- Which operands a row of the map admits (R83). -/
theorem decodeOpcode_legal_iff {opc : Nat} {imm : Half} (known : opcodeKnown opc = true) :
    (∃ i, decodeOpcode opc imm = .ok i) ↔
      (opc ∈ bareOpcodes → imm = 0x0000#16) ∧ (opc ∈ dirOpcodes → imm = 0x0001#16 ∨ imm = 0xFFFF#16) := by
  obtain bare | dir | rfl | rfl := opcodeKnown_iff.mp known
  · obtain ⟨e, reads, -, -⟩ := bareOpcode_row bare
    simp only [reads, readNone_legal_iff, bare, bareOpcodes_disjoint opc bare, true_imp_iff, false_imp_iff, and_true]
  · obtain ⟨f, reads, -, -⟩ := dirOpcode_row dir
    have notBare : opc ∉ bareOpcodes := fun bare => bareOpcodes_disjoint opc bare dir
    simp only [reads, readDir_legal_iff, dir, notBare, true_imp_iff, false_imp_iff, true_and]
  · simp [decodeOpcode_adjustSpeed, bareOpcodes, dirOpcodes]
  · simp [decodeOpcode_setBaseTempo, bareOpcodes, dirOpcodes]

/-! ### The four tests of the decoder (R85) -/

theorem decode_ok_iff {src : Source} {w : Word} {i : Instr} :
    decode src w = .ok i ↔
      rsvField w = 0 ∧ opcodeKnown (opcField w).toNat = true ∧ (src = .ext → (opcField w).toNat < 0x80) ∧
        decodeOpcode (opcField w).toNat (immField w) = .ok i := by
  unfold decode
  split
  · next reserved => exact iff_of_false (by simp) fun ⟨rsv, _⟩ => reserved rsv
  · next rsv =>
    split
    · next unknown => exact iff_of_false (by simp) fun ⟨_, known, _⟩ => by simp [unknown] at known
    · next known =>
      split
      · next internal => exact iff_of_false (by simp) fun ⟨_, _, port, _⟩ => absurd (port internal.1) (by omega)
      · next sent =>
        have port (ext : src = .ext) : (opcField w).toNat < 0x80 := not_le.mp fun above => sent ⟨ext, above⟩
        exact ⟨fun row => ⟨not_not.mp rsv, eq_true_of_ne_false known, port, row⟩, fun ⟨_, _, _, row⟩ => row⟩

/-- An opcode of the block's own events on the command port (R81). -/
theorem decode_internalOpcode {w : Word} (rsv : rsvField w = 0) (known : opcodeKnown (opcField w).toNat = true)
    (internal : 0x80 ≤ (opcField w).toNat) : decode .ext w = .error .internalOpcode := by
  unfold decode
  rw [if_neg (by simp [rsv]), if_neg (by simp [known]), if_pos ⟨rfl, internal⟩]

/-- The fields of every event's word, from the statements per event. -/
theorem fieldsOfEncoding (i : Instr) : Laws.FieldsOfEncoding.Statement i := by
  cases i with
  | nop => exact Laws.FieldsOfEncoding.nop
  | setWaveform dir => exact Laws.FieldsOfEncoding.setWaveform dir
  | resetWaveform => exact Laws.FieldsOfEncoding.resetWaveform
  | setMultiplier dir => exact Laws.FieldsOfEncoding.setMultiplier dir
  | resetMultiplier => exact Laws.FieldsOfEncoding.resetMultiplier
  | setDepth dir => exact Laws.FieldsOfEncoding.setDepth dir
  | resetDepth => exact Laws.FieldsOfEncoding.resetDepth
  | adjustSpeed delta => exact Laws.FieldsOfEncoding.adjustSpeed delta
  | resetSpeedAdjust => exact Laws.FieldsOfEncoding.resetSpeedAdjust
  | setBaseTempo ms => exact Laws.FieldsOfEncoding.setBaseTempo ms
  | tap => exact Laws.FieldsOfEncoding.tap
  | modeHoldStart => exact Laws.FieldsOfEncoding.modeHoldStart
  | modeHoldEnd => exact Laws.FieldsOfEncoding.modeHoldEnd
  | clearStatus => exact Laws.FieldsOfEncoding.clearStatus
  | sampleTick => exact Laws.FieldsOfEncoding.sampleTick
  | msTick => exact Laws.FieldsOfEncoding.msTick
  | syncRise => exact Laws.FieldsOfEncoding.syncRise
  | syncFall => exact Laws.FieldsOfEncoding.syncFall

/-! ### The round trips -/

/-- The word of a well-formed event decodes to it from every source that may send it. -/
theorem decode_encode {src : Source} {i : Instr} (wf : i.wellFormed = true) (sent : src = .ext → i.source = .ext) :
    decode src (encode i) = .ok i := by
  obtain ⟨rsv, known, high⟩ := fieldsOfEncoding i
  refine decode_ok_iff.mpr ⟨rsv, known, fun port => ?_, decodeOpcode_encode wf⟩
  by_contra internal
  have := high.mp (by omega)
  rw [sent port] at this
  cases this

/-- The word of one of the block's own events is illegal on the command port (R81, R86). -/
theorem decode_ext_encode_internal {i : Instr} (internal : i.source = .int) :
    decode .ext (encode i) = .error .internalOpcode := by
  obtain ⟨rsv, known, high⟩ := fieldsOfEncoding i
  exact decode_internalOpcode rsv known (high.mpr internal)

/-- Settles O1: the decoder's tests pass by the fields of the event's word, and its row of the map reads the event. -/
theorem decodeOfEncodeGivesTheEvent : Obligations.DecodeOfEncodeGivesTheEvent := fun _ wf =>
  ⟨decode_encode wf id, decode_encode wf (by simp), decode_ext_encode_internal⟩

/-- A word is the word of the event it decodes to. -/
theorem encode_of_decode {src : Source} {w : Word} {i : Instr} (h : decode src w = .ok i) :
    i.wellFormed = true ∧ encode i = w := by
  obtain ⟨rsv, known, -, row⟩ := decode_ok_iff.mp h
  obtain ⟨wf, word⟩ := decodeOpcode_ok known row
  refine ⟨wf, word.trans ?_⟩
  rw [BitVec.ofNat_toNat, BitVec.setWidth_eq, eventWord_fields rsv]

/-- Settles O2: the row of the map gives the event's word, and the word of one of the block's own events is illegal on
the command port. -/
theorem encodeOfDecodedEventIsTheWord : Obligations.EncodeOfDecodedEventIsTheWord := by
  intro src w i h
  obtain ⟨wf, word⟩ := encode_of_decode h
  refine ⟨wf, word, ?_⟩
  rintro rfl
  cases own : i.source with
  | ext => rfl
  | int =>
    rw [← word, decode_ext_encode_internal own] at h
    cases h

/-! ### The illegal words (R86) -/

theorem exists_error_iff {ε α : Type} {x : Except ε α} : (∃ r, x = .error r) ↔ ¬ ∃ a, x = .ok a := by
  cases x <;> simp

theorem decode_legal_iff {src : Source} {w : Word} :
    (∃ i, decode src w = .ok i) ↔
      rsvField w = 0 ∧ opcodeKnown (opcField w).toNat = true ∧ (src = .ext → (opcField w).toNat < 0x80) ∧
        ((opcField w).toNat ∈ bareOpcodes → immField w = 0x0000#16) ∧
        ((opcField w).toNat ∈ dirOpcodes → immField w = 0x0001#16 ∨ immField w = 0xFFFF#16) := by
  simp only [decode_ok_iff, exists_and_left]
  refine and_congr_right fun _ => and_congr_right fun known => and_congr_right fun _ => ?_
  exact decodeOpcode_legal_iff known

/-- The opcodes outside the table (R86). -/
theorem opcodeKnown_false_iff {opc : Nat} :
    ¬ opcodeKnown opc = true ↔ (0x0E ≤ opc ∧ opc ≤ 0x7F) ∨ 0x84 ≤ opc := by
  simp only [opcodeKnown, Bool.or_eq_true, Bool.and_eq_true, decide_eq_true_eq]
  omega

/-- Format `Z` has the opcodes listed, format `I` those of the block's own events (R84). -/
theorem mem_bareOpcodes_iff {opc : Nat} :
    opc ∈ bareOpcodes ↔
      opc ∈ [0x00, 0x02, 0x04, 0x06, 0x08, 0x0A, 0x0B, 0x0C, 0x0D] ∨ (0x80 ≤ opc ∧ opc ≤ 0x83) := by
  simp only [bareOpcodes, List.mem_cons, List.not_mem_nil, or_false]
  omega

/-- A word is illegal when one of the decoder's tests fails, each written in the word's number. -/
theorem decode_illegal_iff {src : Source} {w : Word} :
    let opc := w.toNat / 2 ^ 24
    let imm := w.toNat % 2 ^ 16
    (∃ r, decode src w = .error r) ↔
      w.toNat / 2 ^ 16 % 2 ^ 8 ≠ 0 ∨ ((0x0E ≤ opc ∧ opc ≤ 0x7F) ∨ 0x84 ≤ opc) ∨ (src = .ext ∧ 0x80 ≤ opc) ∨
        (opc ∈ bareOpcodes ∧ imm ≠ 0) ∨ (opc ∈ dirOpcodes ∧ imm ≠ 0x0001 ∧ imm ≠ 0xFFFF) := by
  simp only [exists_error_iff, decode_legal_iff, ← opcodeKnown_false_iff, ← BitVec.toNat_inj, opcField_toNat,
    rsvField_toNat, immField_toNat, not_and_or, not_or, Classical.not_imp, not_lt]
  rfl

/-- The word 0 is the only `NOP` (R86). -/
theorem eq_zero_of_decode_nop {src : Source} {w : Word} (h : decode src w = .ok .nop) : w = 0 :=
  (encode_of_decode h).2.symm

/-- Settles O3: the list of R86 is the decoder's failing tests. On the command port an opcode of format `I` is illegal
whatever its operand is. -/
theorem illegalWordsAreExactlyTheListed : Obligations.IllegalWordsAreExactlyTheListed := by
  intro w opc rsv imm unknown badD badZ badI
  have bare : opc ∈ bareOpcodes ∧ imm ≠ 0 ↔ badZ ∨ badI := by rw [mem_bareOpcodes_iff, or_and_right]
  have illegal (src : Source) : (∃ r, decode src w = .error r) ↔
      rsv ≠ 0 ∨ unknown ∨ (src = .ext ∧ 0x80 ≤ opc) ∨ (badZ ∨ badI) ∨ badD := by
    rw [← bare]
    exact decode_illegal_iff
  refine ⟨(illegal .ext).trans ?_, (illegal .int).trans ?_, fun r s h => Machine.applyWord_error h s,
    eq_zero_of_decode_nop⟩
  · have above : 0x80 ≤ opc → (0x80 ≤ opc ∧ opc ≤ 0x83) ∨ unknown := fun _ => by omega
    have internal : badI → 0x80 ≤ opc ∧ opc ≤ 0x83 := And.left
    grind
  · simp only [reduceCtorEq, false_and, false_or]
    rw [or_comm (b := badD)]

/-! ### The words of the opcode map (R84) -/

/-- A listed word decodes when it is the word of a well-formed event. -/
theorem decode_of_encode_eq {src : Source} {i : Instr} {w : Word} (wf : i.wellFormed = true) (own : i.source = src)
    (word : encode i = w) : decode src w = .ok i := by
  rw [← word]
  exact decode_encode wf fun port => own.trans port

/-- The word of `ADJUST_SPEED` as R84 lists it. -/
theorem encode_adjustSpeed_eq_ofNat (imm : Half) :
    encode (.adjustSpeed imm.toInt) = BitVec.ofNat 32 (0x07000000 + imm.toNat) := by
  rw [encode_adjustSpeed]
  simp [eventWord]

/-- The word of `SET_BASE_TEMPO` as R84 lists it. -/
theorem encode_setBaseTempo_eq_ofNat (imm : Half) :
    encode (.setBaseTempo imm.toNat) = BitVec.ofNat 32 (0x09000000 + imm.toNat) := by
  rw [encode_setBaseTempo]
  simp [eventWord]

/-- Settles O4: each listed word is the word of its event. -/
theorem opcodeMapWordsDecode : Obligations.OpcodeMapWordsDecode := by
  have listed {src : Source} {i : Instr} {w : Word} := decode_of_encode_eq (src := src) (i := i) (w := w)
  refine ⟨listed rfl rfl rfl, listed rfl rfl rfl, listed rfl rfl rfl, listed rfl rfl rfl, listed rfl rfl rfl,
    listed rfl rfl rfl, listed rfl rfl rfl, listed rfl rfl rfl, listed rfl rfl rfl, listed rfl rfl rfl,
    -- `ADJUST_SPEED`, `RESET_SPEED_ADJUST`, `SET_BASE_TEMPO`
    fun imm => listed (adjustSpeed_wellFormed imm) rfl (encode_adjustSpeed_eq_ofNat imm), listed rfl rfl rfl,
    fun imm => listed (setBaseTempo_wellFormed imm) rfl (encode_setBaseTempo_eq_ofNat imm),
    listed rfl rfl rfl, listed rfl rfl rfl, listed rfl rfl rfl, listed rfl rfl rfl, listed rfl rfl rfl,
    listed rfl rfl rfl, listed rfl rfl rfl, listed rfl rfl rfl, ?_⟩
  -- the block's own events on the command port
  simp only [List.forall_mem_cons]
  exact ⟨decode_ext_encode_internal (i := .sampleTick) rfl, decode_ext_encode_internal (i := .msTick) rfl,
    decode_ext_encode_internal (i := .syncRise) rfl, decode_ext_encode_internal (i := .syncFall) rfl, by simp⟩

end Sys2Proof
end

section
/-! SUPPORT. The waveform table as numbers (spec/40_waveform_table.md): the depth scaling and its monotonicity, the sine
shape round by round of R103, the symmetries and slopes of the tables, and `BuildTable` as a loop of writes. -/

namespace Sys2Proof.Machine

/-! ### `BuildTable` as a loop of writes (R110) -/

/-- The contents `f 0, …, f (n - 1)` written one after another. -/
def writeFirst (f : Nat → Byte) (m : Memory) (n : Nat) : Memory :=
  (List.range n).foldl (fun m i => writeEntry m i (f i)) m

theorem writeFirst_succ (f : Nat → Byte) (m : Memory) (n : Nat) :
    writeFirst f m (n + 1) = writeEntry (writeFirst f m n) n (f n) := by
  simp only [writeFirst, List.range_succ, List.foldl_append, List.foldl_cons, List.foldl_nil]

theorem memoryWf_writeFirst (f : Nat → Byte) {m : Memory} (hm : memoryWf m) {n : Nat} (hn : n ≤ 256) :
    memoryWf (writeFirst f m n) := by
  induction n with
  | zero => exact hm
  | succ n ih =>
    rw [writeFirst_succ]
    exact memoryWf_writeEntry (ih (by omega)) (by omega) _

theorem readEntry_writeFirst (f : Nat → Byte) {m : Memory} (hm : memoryWf m) {n : Nat} (hn : n ≤ 256) {i : Nat}
    (hi : i < n) : readEntry (writeFirst f m n) i = f i := by
  induction n with
  | zero => omega
  | succ n ih =>
    rw [writeFirst_succ, readEntry_writeEntry (memoryWf_writeFirst f hm (by omega))]
    by_cases last : i = n
    · rw [if_pos last, last]
    · rw [if_neg last, ih (by omega) (by omega)]

/-- All 256 writes leave what writing the table at once gives: both are canonical, and they read the same. -/
theorem memoryOf_eq_writeFirst (f : Nat → Byte) {m : Memory} (hm : memoryWf m) : memoryOf f = writeFirst f m 256 :=
  canonicalMemoriesReadingEqualAreEqual _ _ (memoryWf_memoryOf f) (memoryWf_writeFirst f hm le_rfl) fun i hi => by
    rw [readEntry_memoryOf f hi, readEntry_writeFirst f hm le_rfl hi]

/-- Settles O24: the loop of writes leaves the memory that `BuildTable` writes at once. -/
theorem buildTableIsTheLoopOfWrites : Obligations.BuildTableIsTheLoopOfWrites := by
  intro s wf
  unfold buildTable builtTable
  rw [memoryOf_eq_writeFirst _ wf]
  rfl

/-! ### Depth scaling (R108, R109) -/

/-- One formula for every depth: at 100 the offset is 0 and the quotient exact. -/
theorem calcSignalDepth_eq (v r : Nat) : calcSignalDepth v r = depthOffset r + v * r / 100 := by
  unfold calcSignalDepth
  split
  · next full => simp [full, depthOffset]
  · rfl

theorem calcSignalDepth_full (v : Nat) : calcSignalDepth v 100 = v := if_pos rfl

theorem calcSignalDepth_mono {v w : Nat} (h : v ≤ w) (r : Nat) : calcSignalDepth v r ≤ calcSignalDepth w r := by
  rw [calcSignalDepth_eq, calcSignalDepth_eq]
  exact Nat.add_le_add_left (Nat.div_le_div_right (Nat.mul_le_mul_right r h)) _

/-- Two samples that make up full scale are scaled to the scaled full scale, up to the rounding of one quotient. -/
theorem calcSignalDepth_add {v w : Nat} (h : v + w = 255) (r : Nat) :
    calcSignalDepth v r + calcSignalDepth w r ≤ 2 * depthOffset r + 255 * r / 100 ∧
      2 * depthOffset r + 255 * r / 100 ≤ calcSignalDepth v r + calcSignalDepth w r + 1 := by
  have parts : v * r + w * r = 255 * r := by rw [← Nat.add_mul, h]
  rw [calcSignalDepth_eq, calcSignalDepth_eq]
  omega

/-- Settles O27: the quotient that scales a sample is monotone in it. -/
theorem depthScalingIsBoundedAndMonotone : Obligations.DepthScalingIsBoundedAndMonotone := by
  intro v w r hv _ hr
  obtain ⟨lower, upper⟩ := calcSignalDepth_bounds hv hr
  exact ⟨lower, upper, fun h => calcSignalDepth_mono h r, by omega⟩

/-! ### The simple shapes (R102, R105 to R107) -/

theorem shape_quadPulse_eq_255_iff {q : List Byte} {i : Nat} :
    shape q .quadPulse i = 255 ↔
      i < 0x10 ∨ (0x20 ≤ i ∧ i < 0x30) ∨ (0x40 ≤ i ∧ i < 0x50) ∨ (0x60 ≤ i ∧ i < 0x70) := by
  simp only [shape, ite_eq_left_iff, quadPulseHigh, Bool.or_eq_true, Bool.and_eq_true, decide_eq_true_eq]
  omega

/-- The four ranges of R107 are the indexes whose bits 7 and 4 are 0. -/
theorem quadPulse_ranges_iff_testBit {i : Nat} (hi : i < 256) :
    (i < 0x10 ∨ (0x20 ≤ i ∧ i < 0x30) ∨ (0x40 ≤ i ∧ i < 0x50) ∨ (0x60 ≤ i ∧ i < 0x70)) ↔
      i.testBit 7 = false ∧ i.testBit 4 = false := by
  simp only [Nat.testBit_eq_decide_div_mod_eq, decide_eq_false_iff_not]
  omega

theorem shape_triangle_mirror (q : List Byte) {i : Nat} (hi : i < 256) :
    shape q .triangle (255 - i) = shape q .triangle i := by
  simp only [shape]
  split <;> split <;> omega

/-- Settles O25: all but QuadPulse and the mirrored Triangle are read off the definition. -/
theorem shapesOfTheSimpleWaveforms : Obligations.ShapesOfTheSimpleWaveforms := by
  intro q i hi
  refine ⟨rfl, rfl, rfl, fun low => if_pos (by omega), shape_triangle_mirror q hi, rfl, shape_quadPulse_eq_255_iff,
    shape_quadPulse_eq_255_iff.trans (quadPulse_ranges_iff_testBit hi), fun low => ?_⟩
  simp only [shape] at low ⊢
  split at low
  · exact absurd rfl low
  · next notHigh => rw [if_neg notHigh]

/-! ### The sine shape (R103)

Round `j` of the four assignments writes one index in each quarter of the table; `roundIndexes j` lists them. -/

section Rounds
variable (q : List Byte) {j : Nat}

theorem shape_sine_first (hj : j < 64) : shape q .sine j = sineEntry q j := if_pos hj

theorem shape_sine_second (hj : j < 64) : shape q .sine (127 - j) = 255 - sineEntry q j := by
  simp only [shape, sineShape]
  rw [if_neg (by omega), if_pos (by omega), Nat.sub_sub_self (by omega)]

theorem shape_sine_third (hj : j < 64) : shape q .sine (128 + j) = 255 - sineEntry q j := by
  simp only [shape, sineShape]
  rw [if_neg (by omega), if_neg (by omega), if_pos (by omega), Nat.add_sub_cancel_left]

theorem shape_sine_fourth (hj : j < 64) : shape q .sine (255 - j) = sineEntry q j := by
  simp only [shape, sineShape]
  rw [if_neg (by omega), if_neg (by omega), if_neg (by omega), Nat.sub_sub_self (by omega)]

end Rounds

/-- The indexes round `j` of R103 writes. -/
def roundIndexes (j : Nat) : List Nat := [j, 127 - j, 128 + j, 255 - j]

theorem mem_roundIndexes {j k : Nat} : k ∈ roundIndexes j ↔ k = j ∨ k = 127 - j ∨ k = 128 + j ∨ k = 255 - j := by
  simp [roundIndexes]

/-- The 64 rounds reach every index. -/
theorem exists_round {k : Nat} (hk : k < 256) : ∃ j < 64, k ∈ roundIndexes j := by
  simp only [mem_roundIndexes]
  by_cases h1 : k < 64
  · exact ⟨k, h1, by omega⟩
  by_cases h2 : k < 128
  · exact ⟨127 - k, by omega, by omega⟩
  by_cases h3 : k < 192
  · exact ⟨k - 128, by omega, by omega⟩
  · exact ⟨255 - k, by omega, by omega⟩

/-- The values of one round: of its four writes the last at an index counts, and two of them copy an entry the round
itself has just written. -/
theorem sineAssignments_eq (q : List Byte) (t : Nat → Nat) (j k : Nat) :
    sineAssignments q t j k =
      if k = 128 + j then 255 - sineEntry q j
      else if k = 127 - j then 255 - sineEntry q j
      else if k = 255 - j then sineEntry q j
      else if k = j then sineEntry q j
      else t k := by
  simp only [sineAssignments, assign, if_true]

/-- One round writes the sine shape at its four indexes. -/
theorem sineAssignments_of_mem (q : List Byte) (t : Nat → Nat) {j k : Nat} (hj : j < 64) (hk : k ∈ roundIndexes j) :
    sineAssignments q t j k = shape q .sine k := by
  rw [sineAssignments_eq]
  obtain rfl | rfl | rfl | rfl := mem_roundIndexes.mp hk
  · rw [if_neg (by omega), if_neg (by omega), if_neg (by omega), if_pos rfl, shape_sine_first q hj]
  · rw [if_neg (by omega), if_pos rfl, shape_sine_second q hj]
  · rw [if_pos rfl, shape_sine_third q hj]
  · rw [if_neg (by omega), if_neg (by omega), if_pos rfl, shape_sine_fourth q hj]

/-- One round writes nothing else. -/
theorem sineAssignments_of_not_mem (q : List Byte) (t : Nat → Nat) {j k : Nat} (hk : k ∉ roundIndexes j) :
    sineAssignments q t j k = t k := by
  rw [mem_roundIndexes] at hk
  rw [sineAssignments_eq, if_neg (by omega), if_neg (by omega), if_neg (by omega), if_neg (by omega)]

/-- After `n` rounds the indexes of each of them hold the sine shape. -/
theorem sineRounds_apply (q : List Byte) (t : Nat → Nat) {n j k : Nat} (hn : n ≤ 64) (hj : j < n)
    (hk : k ∈ roundIndexes j) : (List.range n).foldl (sineAssignments q) t k = shape q .sine k := by
  induction n with
  | zero => omega
  | succ n ih =>
    rw [List.range_succ, List.foldl_append, List.foldl_cons, List.foldl_nil]
    by_cases last : k ∈ roundIndexes n
    · exact sineAssignments_of_mem q _ (by omega) last
    · have earlier : j ≠ n := by
        rintro rfl
        exact last hk
      rw [sineAssignments_of_not_mem q _ last, ih (by omega) (by omega)]

/-- Settles O26: every index belongs to a round, and the closed form is that of the four quarters. -/
theorem sineTableIsBuiltByTheAssignments : Obligations.SineTableIsBuiltByTheAssignments := by
  refine fun q t => ⟨fun i hi => ?_, fun j hj => ⟨shape_sine_first q hj, ?_, shape_sine_third q hj, ?_⟩⟩
  · obtain ⟨j, hj, hk⟩ := exists_round hi
    exact sineRounds_apply q t le_rfl hj hk
  · rw [← shape_sine_second q (by omega), show 127 - (63 - j) = 64 + j by omega]
  · rw [← shape_sine_fourth q (by omega), show 255 - (63 - j) = 192 + j by omega]

/-- Mirror symmetry about index 127.5. -/
theorem shape_sine_mirror (q : List Byte) {i : Nat} (hi : i < 256) : shape q .sine (255 - i) = shape q .sine i := by
  obtain ⟨j, hj, hk⟩ := exists_round hi
  obtain rfl | rfl | rfl | rfl := mem_roundIndexes.mp hk
  · rw [shape_sine_fourth q hj, shape_sine_first q hj]
  · rw [show 255 - (127 - j) = 128 + j by omega, shape_sine_third q hj, shape_sine_second q hj]
  · rw [show 255 - (128 + j) = 127 - j by omega, shape_sine_second q hj, shape_sine_third q hj]
  · rw [show 255 - (255 - j) = j by omega, shape_sine_first q hj, shape_sine_fourth q hj]

/-- Point symmetry about (63.5, 127.5). -/
theorem shape_sine_point (q : List Byte) {i : Nat} (hi : i < 128) :
    shape q .sine i + shape q .sine (127 - i) = 255 := by
  have low {j : Nat} (hj : j < 64) : shape q .sine j + shape q .sine (127 - j) = 255 := by
    rw [shape_sine_first q hj, shape_sine_second q hj]
    exact Nat.add_sub_of_le (sineEntry_le q j)
  by_cases h : i < 64
  · exact low h
  · have high := low (j := 127 - i) (by omega)
    rwa [Nat.sub_sub_self (by omega), Nat.add_comm] at high

/-! ### The tables as numbers (R117, R118) -/

/-- In legal use no entry is cut to its byte. -/
theorem tableNat_builtTable (q : List Byte) (w : Waveform) {r i : Nat} (hr : r ≤ 100) (hi : i < 256) :
    tableNat (builtTable q w r) i = calcSignalDepth (shape q w i) r := by
  have fits := (calcSignalDepth_bounds (shape_le q w hi) hr).2
  rw [tableNat, builtTable, readEntry_memoryOf _ hi, tableEntry, BitVec.toNat_ofNat, Nat.mod_eq_of_lt (by omega)]

/-- Settles O35: the symmetries are those of the shape, and the depth scaling keeps a sum of 255 up to rounding. -/
theorem sineTableSymmetry : Obligations.SineTableSymmetry := by
  intro q r hr S
  have entry {i : Nat} (hi : i < 256) : S i = calcSignalDepth (shape q .sine i) r := tableNat_builtTable q .sine hr hi
  have full {i : Nat} (hi : i < 256) (h : r = 100) : S i = shape q .sine i := by
    rw [entry hi, h, calcSignalDepth_full]
  have mirror (i : Nat) (hi : i < 256) : S i = S (255 - i) := by
    rw [entry hi, entry (by omega), shape_sine_mirror q hi]
  have point {i : Nat} (hi : i < 128) (h : r = 100) : S i + S (127 - i) = 255 := by
    rw [full (by omega) h, full (by omega) h, shape_sine_point q hi]
  refine ⟨mirror, fun i hi h => ⟨point (by omega) h, ?_⟩, fun h same => ?_, fun i hi => ?_⟩
  · -- the second half is the first one mirrored
    rw [mirror (128 + i) (by omega), ← mirror i (by omega), show 255 - (128 + i) = 127 - i by omega, Nat.add_comm]
    exact point (by omega) h
  · -- equal ends would add up to an even number
    have ends : S 0 + S 127 = 255 := point (by omega) h
    omega
  · rw [entry (by omega), entry (by omega)]
    exact calcSignalDepth_add (shape_sine_point q hi) r

/-- Depth scaling keeps the order of two samples of a shape. -/
theorem tableNat_le_of_shape_le {q : List Byte} {w : Waveform} {r i j : Nat} (hr : r ≤ 100) (hi : i < 256)
    (hj : j < 256) (h : shape q w i ≤ shape q w j) :
    tableNat (builtTable q w r) i ≤ tableNat (builtTable q w r) j := by
  rw [tableNat_builtTable q w hr hi, tableNat_builtTable q w hr hj]
  exact calcSignalDepth_mono h r

theorem shape_triangle_rising (q : List Byte) {i j : Nat} (h : i ≤ j) (hj : j ≤ 127) :
    shape q .triangle i ≤ shape q .triangle j := by
  simp only [shape]
  rw [if_pos (by omega), if_pos (by omega)]
  omega

theorem shape_triangle_falling (q : List Byte) {i j : Nat} (hi : 128 ≤ i) (h : i ≤ j) :
    shape q .triangle j ≤ shape q .triangle i := by
  simp only [shape]
  rw [if_neg (by omega), if_neg (by omega)]
  omega

/-- Settles O36: the shapes are monotone, and the depth scaling keeps their order. -/
theorem rampAndTriangleAreMonotone : Obligations.RampAndTriangleAreMonotone := by
  intro q r i j hr hij hj
  have hi : i < 256 := by omega
  exact ⟨tableNat_le_of_shape_le hr hi hj hij, tableNat_le_of_shape_le hr hj hi (Nat.sub_le_sub_left hij 255),
    fun first => tableNat_le_of_shape_le hr hi hj (shape_triangle_rising q hij first),
    fun second => tableNat_le_of_shape_le hr hj hi (shape_triangle_falling q second hij)⟩

end Sys2Proof.Machine
end

section
/-! SUPPORT. The events of the waveform table builder (spec/40_waveform_table.md R111 to R119), all of them as one
operation: new settings, and the table rebuilt for them. -/

namespace Sys2Proof.Machine

/-! ### New settings -/

/-- The settings of the builder replaced and the table rebuilt for them. -/
def withSettings (w : Waveform) (r : BitVec 7) (s : State) : State :=
  buildTable { s with wave := { s.wave with waveform := w, depthRatio := r } }

section Settings
variable (w v : Waveform) (r p : BitVec 7) (s : State)

@[simp] theorem withSettings_waveform : (withSettings w r s).wave.waveform = w := rfl

@[simp] theorem withSettings_depthRatio : (withSettings w r s).wave.depthRatio = r := rfl

/-- What the rebuilt table reads as (R110). -/
theorem tableRead_withSettings (a : Byte) :
    tableRead (withSettings w r s).wave.depthTable a =
      BitVec.ofNat 8 (calcSignalDepth (shape s.par.sineQ w a.toNat) r.toNat) :=
  tableRead_builtTable s.par.sineQ w r.toNat a

/-- A second change of the settings hides the first: nothing of the old table is left. -/
@[simp] theorem withSettings_withSettings : withSettings v p (withSettings w r s) = withSettings v p s := rfl

end Settings

/-- In a state the invariant admits, the table is the one a rebuild would give. -/
theorem Inv.withSettings_self {s : State} (h : Inv s) : withSettings s.wave.waveform s.wave.depthRatio s = s := by
  unfold withSettings buildTable
  rw [← h.table]

/-! ### The four events -/

theorem exec_setWaveform (d : Dir) (s : State) :
    exec (.setWaveform d) s = .next (withSettings (stepWaveform s.wave.waveform d) s.wave.depthRatio s) := rfl

theorem exec_resetWaveform (s : State) :
    exec .resetWaveform s = .next (withSettings .sine s.wave.depthRatio s) := rfl

theorem exec_resetDepth (s : State) : exec .resetDepth s = .next (withSettings s.wave.waveform 100 s) := rfl

theorem exec_setDepth_same {d : Dir} {s : State} (same : stepDepth s.wave.depthRatio d = s.wave.depthRatio) :
    exec (.setDepth d) s = .next s := if_pos same

theorem exec_setDepth_changed {d : Dir} {s : State} (changed : stepDepth s.wave.depthRatio d ≠ s.wave.depthRatio) :
    exec (.setDepth d) s = .next (withSettings s.wave.waveform (stepDepth s.wave.depthRatio d) s) := if_neg changed

/-- Once the table fits the settings, a `SET_DEPTH` that rebuilds nothing leaves what a rebuild would have left. -/
theorem exec_setDepth_withSettings (d : Dir) (w : Waveform) (r : BitVec 7) (s : State) :
    exec (.setDepth d) (withSettings w r s) = .next (withSettings w (stepDepth r d) s) := by
  by_cases same : stepDepth r d = r
  · rw [exec_setDepth_same (s := withSettings w r s) same, same]
  · rw [exec_setDepth_changed (s := withSettings w r s) same, withSettings_withSettings, withSettings_waveform,
      withSettings_depthRatio]

/-! ### The stepped settings -/

/-- `SET_WAVEFORM` steps the code modulo 7 (R111). -/
theorem waveformCode_stepWaveform (w : Waveform) (d : Dir) :
    (waveformCode (stepWaveform w d) : Int) = ((waveformCode w : Int) + dirValue d) % 7 := by
  rw [stepWaveform, waveformCode_ofCode (by omega)]
  omega

theorem waveformCode_injective {v w : Waveform} (h : waveformCode v = waveformCode w) : v = w := by
  rw [← waveformOfCode_code v, h, waveformOfCode_code]

/-- Two steps of the waveform in opposite directions cancel, at the ends of the codes too. -/
theorem stepWaveform_stepWaveform {d e : Dir} (opposite : dirValue d + dirValue e = 0) (w : Waveform) :
    stepWaveform (stepWaveform w d) e = w := by
  have range := waveformCode_lt w
  have first := waveformCode_stepWaveform w d
  have second := waveformCode_stepWaveform (stepWaveform w d) e
  exact waveformCode_injective (by omega)

/-- `SET_DEPTH` moves the ratio by 5 within 0..100 (R113), as the least and greatest of numbers. -/
theorem stepDepth_eq_max_min (r : BitVec 7) (d : Dir) :
    ((stepDepth r d).toNat : Int) = max 0 (min 100 ((r.toNat : Int) + 5 * dirValue d)) := by
  rw [stepDepth_toInt]
  unfold clamp
  split_ifs <;> omega

/-! ### What each event does (R111 to R114) -/

/-- Settles O28: the decoder's row admits two operands, and the event gives new settings. -/
theorem setWaveformStepsAndRebuilds : Obligations.SetWaveformStepsAndRebuilds := by
  refine ⟨⟨decode_of_encode_eq (i := .setWaveform .plus) rfl rfl rfl,
    decode_of_encode_eq (i := .setWaveform .minus) rfl rfl rfl, fun imm notPlus notMinus => ?_⟩, fun dir s => ?_⟩
  · rw [exists_error_iff, decode_legal_iff]
    rintro ⟨-, -, -, -, legal⟩
    rw [opcField_eventWord, immField_eventWord] at legal
    exact (legal (by decide)).elim notPlus notMinus
  · exact ⟨_, exec_setWaveform dir s, waveformCode_stepWaveform _ dir, tableRead_withSettings _ _ s, rfl⟩

/-- Settles O29: the event gives new settings without testing the old ones. -/
theorem resetWaveformRestoresSine : Obligations.ResetWaveformRestoresSine :=
  ⟨decode_of_encode_eq (i := .resetWaveform) rfl rfl rfl, fun s =>
    ⟨_, exec_resetWaveform s, tableRead_withSettings _ _ s, rfl⟩⟩

/-- Settles O30, by the two cases of `SET_DEPTH`: the ratio stays, or it moves. -/
theorem setDepthStepsAndRebuildsOnChange : Obligations.SetDepthStepsAndRebuildsOnChange := by
  refine ⟨⟨decode_of_encode_eq (i := .setDepth .plus) rfl rfl rfl,
    decode_of_encode_eq (i := .setDepth .minus) rfl rfl rfl⟩, fun dir s => ?_⟩
  intro new
  have value : ((stepDepth s.wave.depthRatio dir).toNat : Int) = new := stepDepth_eq_max_min _ dir
  split
  · next same => exact exec_setDepth_same (BitVec.eq_of_toNat_eq (by omega))
  · next changed =>
    have moved : stepDepth s.wave.depthRatio dir ≠ s.wave.depthRatio := fun same => changed (by rw [← value, same])
    refine ⟨_, exec_setDepth_changed moved, value, fun a => ?_, rfl⟩
    rw [tableRead_withSettings, ← value, Int.toNat_natCast]

/-- Settles O31: at depth 100 the scaled shape is the bare one. -/
theorem resetDepthRestoresFullDepth : Obligations.ResetDepthRestoresFullDepth := by
  refine ⟨decode_of_encode_eq (i := .resetDepth) rfl rfl rfl, fun s => ⟨_, exec_resetDepth s, fun a => ?_, rfl⟩⟩
  rw [tableRead_withSettings]
  exact congrArg _ (calcSignalDepth_full _)

/-! ### Which events reach the table (R115, R116) -/

/-- An event that does not rebuild leaves the settings and the table as they were. -/
theorem exec_wave_of_not_rebuilds {i : Instr} {s t : State} (he : exec i s = .next t) (quiet : rebuilds i = false) :
    t.wave = s.wave := by
  cases i with
  | setWaveform dir => cases quiet
  | resetWaveform => cases quiet
  | setDepth dir => cases quiet
  | resetDepth => cases quiet
  | adjustSpeed delta => obtain rfl | ⟨_, _, rfl⟩ := execAdjustSpeed_cases he <;> rfl
  | tap => obtain ⟨_, rfl⟩ | ⟨_, rfl⟩ := execTap_cases he <;> simp [stopTempoCount]
  | syncRise => cases he; simp [stopTempoCount]
  | _ => cases he; simp

/-- An event that rebuilds gives new settings and their table, or is a `SET_DEPTH` that changes nothing. -/
theorem exec_of_rebuilds {i : Instr} {s t : State} (he : exec i s = .next t) (builder : rebuilds i = true) :
    (t = s ∧ ∃ dir, i = .setDepth dir) ∨ ∃ w r, t = withSettings w r s := by
  cases i with
  | setWaveform dir => cases he; exact .inr ⟨_, _, rfl⟩
  | resetWaveform => cases he; exact .inr ⟨_, _, rfl⟩
  | setDepth dir =>
    obtain ⟨_, same⟩ | ⟨_, rfl⟩ := execSetDepth_cases he
    · exact .inl ⟨same, dir, rfl⟩
    · exact .inr ⟨_, _, rfl⟩
  | resetDepth => cases he; exact .inr ⟨_, _, rfl⟩
  | _ => cases builder

/-- Settles O32, by the two kinds of events. -/
theorem onlyTheListedEventsTouchTheTable : Obligations.OnlyTheListedEventsTouchTheTable := by
  refine fun i s t he => ⟨exec_wave_of_not_rebuilds he, fun builder => ?_⟩
  obtain unchanged | ⟨w, r, rfl⟩ := exec_of_rebuilds he builder
  · exact .inl unchanged
  · exact .inr (tableRead_withSettings w r s)

/-! ### Round trips (R119) -/

/-- Two opposite steps of the waveform restore a state whose table fits its settings. -/
theorem Inv.runTrace_setWaveform {s : State} (h : Inv s) {d e : Dir} (opposite : dirValue d + dirValue e = 0) :
    runTrace [.event (.setWaveform d), .event (.setWaveform e)] s = .next s := by
  calc runTrace [.event (.setWaveform d), .event (.setWaveform e)] s
      = .next (withSettings (stepWaveform (stepWaveform s.wave.waveform d) e) s.wave.depthRatio s) := rfl
    _ = .next s := by rw [stepWaveform_stepWaveform opposite, h.withSettings_self]

/-- Settles O33: the two directions are opposite, whichever comes first. -/
theorem setWaveformRoundTripRestoresTheState : Obligations.SetWaveformRoundTripRestoresTheState := fun _ h =>
  ⟨h.runTrace_setWaveform rfl, h.runTrace_setWaveform rfl⟩

/-- `k` times `SET_DEPTH` in one direction. -/
theorem runTrace_setDepth (d : Dir) (k : Nat) (w : Waveform) (r : BitVec 7) (s : State) :
    runTrace (List.replicate k (.event (.setDepth d))) (withSettings w r s) =
      .next (withSettings w ((stepDepth · d)^[k] r) s) := by
  induction k generalizing r with
  | zero => rfl
  | succ k ih =>
    rw [List.replicate_succ, runTrace_cons, runItem, exec_setDepth_withSettings, andThen_next, ih,
      Function.iterate_succ_apply]

/-- `k` steps of the depth up, then `k` down, only move the ratio and rebuild the table for it. -/
theorem Inv.runTrace_setDepth_up_down {s : State} (h : Inv s) (k : Nat) :
    runTrace (List.replicate k (.event (.setDepth .plus)) ++ List.replicate k (.event (.setDepth .minus))) s =
      .next (withSettings s.wave.waveform
        ((stepDepth · .minus)^[k] ((stepDepth · .plus)^[k] s.wave.depthRatio)) s) := by
  have up := runTrace_setDepth .plus k s.wave.waveform s.wave.depthRatio s
  rw [h.withSettings_self] at up
  rw [runTrace_append, up, andThen_next, runTrace_setDepth]

theorem stepDepth_plus_toNat {r : BitVec 7} (h : r.toNat + 5 ≤ 100) : (stepDepth r .plus).toNat = r.toNat + 5 := by
  have value := stepDepth_eq_max_min r .plus
  simp only [dirValue] at value
  omega

/-- A step down takes back a step up that was not clamped. -/
theorem stepDepth_minus_plus {r : BitVec 7} (h : r.toNat + 5 ≤ 100) : stepDepth (stepDepth r .plus) .minus = r := by
  have value := stepDepth_eq_max_min (stepDepth r .plus) .minus
  rw [stepDepth_plus_toNat h] at value
  simp only [dirValue] at value
  exact BitVec.eq_of_toNat_eq (by omega)

/-- The same for `k` steps: the inner ones cancel from one step higher. -/
theorem stepDepth_iterate_up_down {r : BitVec 7} {k : Nat} (h : r.toNat + 5 * k ≤ 100) :
    (stepDepth · .minus)^[k] ((stepDepth · .plus)^[k] r) = r := by
  induction k generalizing r with
  | zero => rfl
  | succ k ih =>
    have first := stepDepth_plus_toNat (r := r) (by omega)
    rw [Function.iterate_succ_apply', Function.iterate_succ_apply, ih (by omega), stepDepth_minus_plus (by omega)]

/-- Settles O34: without clamping the ratio comes back, and with it the table; from 100 the first step is clamped. -/
theorem setDepthRoundTripWithoutClamping : Obligations.SetDepthRoundTripWithoutClamping := by
  refine fun s k h => ⟨fun room => ?_, fun full => ⟨_, h.runTrace_setDepth_up_down 1, ?_⟩⟩
  · rw [h.runTrace_setDepth_up_down, stepDepth_iterate_up_down room, h.withSettings_self]
  · rw [withSettings_depthRatio, full]
    decide

end Sys2Proof.Machine
end

section
/-! SUPPORT. The phase engine (spec/41_phase_accumulator.md): the sample tick as one update of the state, which
additions it detects as wraps, the alignment pattern of the boundaries, and the first tick after the phases restart. -/

namespace Sys2Proof.Machine

/-! ### Phases and their indexes (R31, R32) -/

theorem phaseIndex_toNat (p : Word) : (phaseIndex p).toNat = p.toNat / 2 ^ 24 := by
  have := p.isLt
  rw [phaseIndex, BitVec.extractLsb'_toNat, Nat.shiftRight_eq_div_pow]
  omega

/-- An increment of at most half a turn lowers the index just when the addition wraps (R140). -/
theorem phaseIndex_add_lt_iff {p d : Word} (h : d.toNat ≤ 2 ^ 31) :
    (phaseIndex (p + d)).toNat < (phaseIndex p).toNat ↔ 2 ^ 32 ≤ p.toNat + d.toNat := by
  have := p.isLt
  rw [phaseIndex_toNat, phaseIndex_toNat, BitVec.toNat_add]
  omega

/-- An increment below one table entry leaves a phase that starts at 0 at index 0 (R141). -/
theorem phaseIndex_eq_zero {d : Word} (h : d.toNat < 2 ^ 24) : phaseIndex d = 0 :=
  BitVec.eq_of_toNat_eq ((phaseIndex_toNat d).trans (Nat.div_eq_of_lt h))

/-! ### The alignment index (R136, R139) -/

theorem alignTested_toNat (mai : BitVec 4) : (alignTested mai).toNat = if 12 ≤ mai.toNat then 0 else mai.toNat :=
  apply_ite BitVec.toNat _ _ _

/-- The next alignment tests the next index modulo 12. -/
theorem alignTested_alignTested_add_one (mai : BitVec 4) :
    (alignTested (alignTested mai + 1)).toNat = ((alignTested mai).toNat + 1) % 12 := by
  have tested := alignTested_le mai
  have succ_eq : (alignTested mai + 1).toNat = (alignTested mai).toNat + 1 :=
    BitVec.toNat_add_of_lt (by simp; omega)
  rw [alignTested_toNat, succ_eq]
  split <;> omega

theorem iterate_alignWaveform_multiplier (s : State) (n : Nat) :
    (alignWaveform^[n] s).tempo.multiplier = s.tempo.multiplier := by
  induction n with
  | zero => rfl
  | succ n ih => rw [Function.iterate_succ_apply', alignWaveform_tempo, ih]

theorem alignTested_iterate_alignWaveform {s : State} (h : s.tempo.multiplierAlignmentIndex = 0) (n : Nat) :
    (alignTested (alignWaveform^[n] s).tempo.multiplierAlignmentIndex).toNat = n % 12 := by
  induction n with
  | zero =>
    rw [Function.iterate_zero_apply, h]
    rfl
  | succ n ih =>
    rw [Function.iterate_succ_apply', alignWaveform_tempo, alignTested_alignTested_add_one, ih, Nat.mod_add_mod]

/-! ### The sample tick as one update (R131) -/

section Tick
variable (s : State)

/-- The base phase after the base step (R132). -/
def tickBasePhase : Word := s.phase.basePhaseAccumulator + s.tempo.baseDutyCycle

/-- The next sample tick is a base-cycle boundary (R133). -/
abbrev BoundaryNext : Prop := (phaseIndex (tickBasePhase s)).toNat < s.phase.baseTableIndex.toNat

/-- The next alignment tests a multiple of `ALIGN` (R136). -/
abbrev AlignedNext : Prop := (alignTested s.tempo.multiplierAlignmentIndex).toNat % align s.tempo.multiplier = 0

/-- The working phase that the working step advances (R133, R134). -/
def tickStartPhase : Word := if BoundaryNext s ∧ AlignedNext s then 0 else s.phase.workingPhaseAccumulator

/-- The working phase after the working step (R134). -/
def tickWorkingPhase : Word := tickStartPhase s + s.tempo.workingDutyCycle

/-- The next sample tick is a working wrap (R135). -/
abbrev WrapNext : Prop := (phaseIndex (tickWorkingPhase s)).toNat < s.phase.workingTableIndex.toNat

/-- What a sample tick leaves, from the registers before it (R131). -/
def ticked : State :=
  { s with
    tempo := { s.tempo with
      multiplierAlignmentIndex :=
        if BoundaryNext s then alignTested s.tempo.multiplierAlignmentIndex + 1
        else s.tempo.multiplierAlignmentIndex }
    phase :=
      { basePhaseAccumulator := tickBasePhase s
        baseTableIndex := phaseIndex (tickBasePhase s)
        tempoIndicator := if BoundaryNext s then !s.phase.tempoIndicator else s.phase.tempoIndicator
        workingPhaseAccumulator := tickWorkingPhase s
        workingTableIndex := phaseIndex (tickWorkingPhase s)
        pwmDuty :=
          tableRead s.wave.depthTable
            (if s.wave.waveform = .random then s.phase.randomNumber else phaseIndex (tickWorkingPhase s))
        randomNumber :=
          if WrapNext s then BitVec.ofNat 8 (32 * (Config.rngNext s.phase.rngState).1.val)
          else s.phase.randomNumber
        rngState := if WrapNext s then (Config.rngNext s.phase.rngState).2 else s.phase.rngState } }

/-- What the boundary step writes (R133). -/
theorem boundaryStep_eq (prevBase : Byte) :
    boundaryStep prevBase s =
      { s with
        tempo := { s.tempo with
          multiplierAlignmentIndex :=
            if s.phase.baseTableIndex.toNat < prevBase.toNat then alignTested s.tempo.multiplierAlignmentIndex + 1
            else s.tempo.multiplierAlignmentIndex }
        phase := { s.phase with
          tempoIndicator :=
            if s.phase.baseTableIndex.toNat < prevBase.toNat then !s.phase.tempoIndicator
            else s.phase.tempoIndicator
          workingPhaseAccumulator :=
            if s.phase.baseTableIndex.toNat < prevBase.toNat ∧ AlignedNext s then 0
            else s.phase.workingPhaseAccumulator } } := by
  by_cases fell : s.phase.baseTableIndex.toNat < prevBase.toNat
  · simp only [boundaryStep, fell, if_true, true_and]
    rfl
  · simp only [boundaryStep, fell, if_false, false_and]

/-- What the draw step writes (R135). -/
theorem drawStep_eq (prevWork : Byte) :
    drawStep prevWork s =
      { s with phase := { s.phase with
          randomNumber :=
            if s.phase.workingTableIndex.toNat < prevWork.toNat then
              BitVec.ofNat 8 (32 * (Config.rngNext s.phase.rngState).1.val)
            else s.phase.randomNumber
          rngState :=
            if s.phase.workingTableIndex.toNat < prevWork.toNat then (Config.rngNext s.phase.rngState).2
            else s.phase.rngState } } := by
  unfold drawStep
  split <;> rfl

theorem exec_sampleTick : exec .sampleTick s = .next (ticked s) := by
  show Host.Outcome.next (drawStep _ (outputStep (workingStep (boundaryStep _ (baseStep s))))) = _
  rw [boundaryStep_eq, drawStep_eq]
  rfl

end Tick

/-! ### Facts about the tick -/

section Facts
variable {s : State}

theorem tickStartPhase_aligned (boundary : BoundaryNext s) (aligned : AlignedNext s) : tickStartPhase s = 0 :=
  if_pos ⟨boundary, aligned⟩

theorem tickStartPhase_kept (h : ¬ BoundaryNext s ∨ ¬ AlignedNext s) :
    tickStartPhase s = s.phase.workingPhaseAccumulator :=
  if_neg (not_and_or.mpr h)

theorem ticked_tempoIndicator_ne_iff : (ticked s).phase.tempoIndicator ≠ s.phase.tempoIndicator ↔ BoundaryNext s := by
  by_cases boundary : BoundaryNext s <;> simp [ticked, boundary]

/-- Under the invariant both increments are at most half a turn (R140). -/
theorem Inv.duties_le (h : Inv s) :
    s.tempo.baseDutyCycle.toNat ≤ 2 ^ 31 ∧ s.tempo.workingDutyCycle.toNat ≤ 2 ^ 31 := by
  have room := h.baseDuty_room
  have scaled := scaled_le s.tempo.baseDutyCycle.toNat s.tempo.multiplier
  rw [← h.workingDuty] at scaled
  omega

/-- At the default parameters both increments are below one table entry (R141). -/
theorem Inv.duties_lt_of_defaults (h : Inv s) (par : s.par = Config.defaults) :
    s.tempo.baseDutyCycle.toNat < 2 ^ 24 ∧ s.tempo.workingDutyCycle.toNat < 2 ^ 24 := by
  have fastest : duty Config.defaults 50 = 2748779 := rfl
  have slower : duty Config.defaults (effectiveTempo s.tempo).toNat ≤ duty Config.defaults 50 := by
    have range := h.effective.1
    rw [par] at range
    have bound : Config.defaults.lfoMaxTempo = 50 := rfl
    exact duty_antitone (fs_pos defaults_ok) (by decide) (by omega)
  have scaled := scaled_le s.tempo.baseDutyCycle.toNat s.tempo.multiplier
  rw [← h.workingDuty] at scaled
  rw [← par, ← h.baseDuty, par] at slower
  omega

end Facts

/-! ### What the sample tick does (R131, R137, R140, R142) -/

/-- Settles O37: the numbers of the statement are those of the words of `ticked`. -/
theorem sampleTickAdvancesBothPhases : Obligations.SampleTickAdvancesBothPhases := by
  refine ⟨⟨decode_of_encode_eq (i := .sampleTick) rfl rfl rfl, decode_ext_encode_internal (i := .sampleTick) rfl⟩, ?_⟩
  intro s P b bi boundary mai tested w0 w wi wrap draw
  have base : b = (tickBasePhase s).toNat := (BitVec.toNat_add _ _).symm
  have baseIndex : bi = (phaseIndex (tickBasePhase s)).toNat := by rw [phaseIndex_toNat, ← base]
  have tested_eq : tested = (alignTested s.tempo.multiplierAlignmentIndex).toNat := (alignTested_toNat _).symm
  have start : w0 = (tickStartPhase s).toNat := by
    rw [tickStartPhase, apply_ite BitVec.toNat]
    simp only [BoundaryNext, AlignedNext, ← baseIndex, ← tested_eq]
    rfl
  have working : w = (tickWorkingPhase s).toNat := by rw [tickWorkingPhase, BitVec.toNat_add, ← start]
  have workingIndex : wi = (phaseIndex (tickWorkingPhase s)).toNat := by rw [phaseIndex_toNat, ← working]
  rw [exec_sampleTick]
  simp only [boundary, wrap, base, baseIndex, tested_eq, working, workingIndex, BitVec.ofNat_add, BitVec.ofNat_toNat,
    BitVec.setWidth_eq]
  rfl

/-- Settles O38: each increment is at most half a turn, so an index in step falls only by a wrap. -/
theorem wrapsAreDetectedExactly : Obligations.WrapsAreDetectedExactly := by
  intro s h baseInStep workingInStep
  obtain ⟨baseDuty, workingDuty⟩ := h.duties_le
  have boundary : BoundaryNext s ↔ 2 ^ 32 ≤ s.phase.basePhaseAccumulator.toNat + s.tempo.baseDutyCycle.toNat := by
    rw [BoundaryNext, baseInStep]
    exact phaseIndex_add_lt_iff baseDuty
  refine ⟨baseDuty, workingDuty, _, exec_sampleTick s, ticked_tempoIndicator_ne_iff.trans boundary, fun kept => ?_,
    rfl, rfl⟩
  have start : tickStartPhase s = s.phase.workingPhaseAccumulator :=
    tickStartPhase_kept (by rwa [boundary, not_le])
  show (phaseIndex (tickStartPhase s + _)).toNat < _ ↔ _
  rw [start, workingInStep]
  exact phaseIndex_add_lt_iff workingDuty

/-- Settles O39: the tested index counts modulo 12, which every `ALIGN` divides. -/
theorem alignmentPatternOfBoundaries : Obligations.AlignmentPatternOfBoundaries := by
  intro s n first
  have tested := alignTested_iterate_alignWaveform first n
  refine ⟨tested, ?_⟩
  show (alignWaveform^[n + 1] s).phase.workingPhaseAccumulator = _
  rw [Function.iterate_succ_apply', alignWaveform_phase, tested, iterate_alignWaveform_multiplier,
    Nat.mod_mod_of_dvd _ (align_dvd _)]

/-- Settles O40: the working step adds its increment to 0. -/
theorem alignedBoundaryRestartsTheWorkingPhase : Obligations.AlignedBoundaryRestartsTheWorkingPhase := by
  refine ⟨fun s aligned => if_pos aligned, fun s fall aligned => ⟨_, exec_sampleTick s, ?_⟩⟩
  have boundary : BoundaryNext s := by rwa [BoundaryNext, phaseIndex_toNat, tickBasePhase, BitVec.toNat_add]
  show tickStartPhase s + _ = _
  rw [tickStartPhase_aligned boundary aligned, zero_add]

/-- Settles O42: the table entry at `RandomNumber` is its scaled level, and every level is a multiple of 32. -/
theorem randomOutputIsTheLatchedLevel : Obligations.RandomOutputIsTheLatchedLevel := by
  intro s h random
  refine ⟨_, exec_sampleTick s, ?_, (ticked s).phase.randomNumber.toNat / 32, ?_, ?_⟩
  · have fits := (calcSignalDepth_bounds (Nat.le_of_lt_succ s.phase.randomNumber.isLt) h.depthRatio.1).2
    calc (ticked s).phase.pwmDuty.toNat
        = (tableRead s.wave.depthTable s.phase.randomNumber).toNat := by simp only [ticked, random, if_true]
      _ = calcSignalDepth s.phase.randomNumber.toNat s.wave.depthRatio.toNat := by
        rw [h.tableRead_eq, random, tableEntry, BitVec.toNat_ofNat]
        exact Nat.mod_eq_of_lt (Nat.lt_succ_of_le fits)
  · have := (ticked s).phase.randomNumber.isLt
    omega
  · have level := (exec_inv h (exec_sampleTick s)).random
    omega

/-! ### The first tick after the phases restart (R141, R291) -/

@[simp] theorem setBaseTempo_multiplierAlignmentIndex (ms : Nat) (s : State) :
    (setBaseTempo ms s).tempo.multiplierAlignmentIndex = s.tempo.multiplierAlignmentIndex := by
  unfold setBaseTempo
  split
  · rfl
  · split <;> rfl

/-- `t` is `s` after a `ResetSignals()` (R180): phases and alignment index restarted, the table indexes still those of
`s`. -/
structure PhasesRestarted (s t : State) : Prop where
  basePhase : t.phase.basePhaseAccumulator = 0
  workingPhase : t.phase.workingPhaseAccumulator = 0
  alignIndex : t.tempo.multiplierAlignmentIndex = 0
  baseIndex : t.phase.baseTableIndex = s.phase.baseTableIndex
  workingIndex : t.phase.workingTableIndex = s.phase.workingTableIndex
  indicator : t.phase.tempoIndicator = s.phase.tempoIndicator
  random : t.phase.randomNumber = s.phase.randomNumber

theorem startTempoCount_restarts (s : State) : PhasesRestarted s (startTempoCount s) := by constructor <;> rfl

theorem stopTempoCount_restarts (s : State) : PhasesRestarted s (stopTempoCount s) := by
  constructor <;> simp [stopTempoCount, seedOnFirstStop_eq]

/-- A tap and the sync edges restart the phases, whichever procedure they run (R184 to R186). -/
theorem exec_restarts {i : Instr} (h : i ∈ [.tap, .syncRise, .syncFall]) (s : State) :
    ∃ t, exec i s = .next t ∧ PhasesRestarted s t := by
  simp only [List.mem_cons, List.not_mem_nil, or_false] at h
  obtain rfl | rfl | rfl := h
  · by_cases idle : s.flags.isCountingTempo = false
    · exact ⟨_, if_pos idle, startTempoCount_restarts s⟩
    · exact ⟨_, if_neg idle, stopTempoCount_restarts s⟩
  · exact ⟨_, rfl, stopTempoCount_restarts s⟩
  · exact ⟨_, rfl, startTempoCount_restarts s⟩

section Restarted
variable {s t : State} (restart : PhasesRestarted s t)
include restart

/-- The first base step leads to index 0, so it is a boundary just when the stale index was above 0. -/
theorem PhasesRestarted.boundaryNext_iff (short : t.tempo.baseDutyCycle.toNat < 2 ^ 24) :
    BoundaryNext t ↔ 0 < s.phase.baseTableIndex.toNat := by
  rw [BoundaryNext, tickBasePhase, restart.basePhase, zero_add, phaseIndex_eq_zero short, restart.baseIndex]
  rfl

/-- The working phase starts from 0 whether or not an alignment forces it. -/
theorem PhasesRestarted.tickWorkingPhase_eq : tickWorkingPhase t = t.tempo.workingDutyCycle := by
  rw [tickWorkingPhase, tickStartPhase, restart.workingPhase, ite_self, zero_add]

/-- The first working step leads to index 0 too. -/
theorem PhasesRestarted.wrapNext_iff (short : t.tempo.workingDutyCycle.toNat < 2 ^ 24) :
    WrapNext t ↔ 0 < s.phase.workingTableIndex.toNat := by
  rw [WrapNext, restart.tickWorkingPhase_eq, phaseIndex_eq_zero short, restart.workingIndex]
  rfl

end Restarted

/-- Settles O41: after a tap or a sync edge both phases are one increment, at index 0, and the indexes before the tick
are the stale ones. -/
theorem firstTickAfterResetSignalsSeesStaleIndexes : Obligations.FirstTickAfterResetSignalsSeesStaleIndexes := by
  intro s i h par edge
  obtain ⟨t, first, restart⟩ := exec_restarts edge s
  obtain ⟨shortBase, shortWorking⟩ := (exec_inv h first).duties_lt_of_defaults ((exec_par first).trans par)
  have boundary := restart.boundaryNext_iff shortBase
  have wrap := restart.wrapNext_iff shortWorking
  refine ⟨t, ticked t, first, exec_sampleTick t, fun stale => ?_, fun zero => ?_, fun stale => ?_, fun zero => ?_⟩
  · simp [ticked, boundary, stale, restart.indicator, restart.alignIndex, restart.tickWorkingPhase_eq, alignTested]
  · simp [ticked, boundary, zero, restart.indicator, restart.alignIndex]
  · simp [ticked, wrap, stale]
  · simp [ticked, wrap, zero, restart.random]

end Sys2Proof.Machine
end

section
/-! SUPPORT. The tempo model (spec/42_tempo_model.md): the exact increments of a tempo in range, its five events, and
the working phase after a change of the multiplier. -/

namespace Sys2Proof

theorem Params.Ok.lfoMaxTempo_pos {p : Params} (h : p.Ok) : 0 < p.lfoMaxTempo := h.2.1.1

end Sys2Proof

namespace Sys2Proof.Machine

/-! ### Increments (R150 to R152) -/

theorem duty_eq_dutyFormula (p : Params) (t : Nat) : duty p t = dutyFormula p t := rfl

/-- Settles O43: the divisor is positive from `LFO_MAX_TEMPO` on, and grows with the period. -/
theorem dutyFitsAndFallsWithThePeriod : Obligations.DutyFitsAndFallsWithThePeriod := by
  refine ⟨fun p t u ok fastest longer => ?_, rfl, rfl, rfl, rfl⟩
  have period : 0 < t := ok.lfoMaxTempo_pos.trans_le fastest
  exact ⟨duty_eq_dutyFormula p t, Nat.mul_pos period (fs_pos ok), duty_bound ok fastest,
    duty_antitone (fs_pos ok) period longer⟩

/-- The state with another base tempo and trim, its increments still those of the old ones. -/
def withTempo (base trim : Half) (s : State) : State :=
  { s with tempo := { s.tempo with baseTempo := base, tempoAdjustOffset := trim } }

section Recompute
variable {s : State} {base trim : Half} {e : Int} (ok : s.par.Ok)
  (effective : effectiveTempo (withTempo base trim s).tempo = e) (fastest : (s.par.lfoMaxTempo : Int) ≤ e)
include ok effective fastest

/-- `Recompute()` cuts nothing off the base increment of a tempo from `LFO_MAX_TEMPO` on. -/
theorem recompute_withTempo_baseDutyCycle :
    (recompute (withTempo base trim s)).tempo.baseDutyCycle.toNat = dutyFormula s.par e.toNat := by
  subst effective
  exact duty_toNat ok (by omega)

/-- Nor does it of the working increment, whatever the ratio. -/
theorem recompute_withTempo_workingDutyCycle :
    (recompute (withTempo base trim s)).tempo.workingDutyCycle.toNat =
      dutyFormula s.par e.toNat * ratioNum s.tempo.multiplier / ratioDen s.tempo.multiplier := by
  have uncut := recompute_withTempo_baseDutyCycle ok effective fastest
  have room := duty_bound ok (t := e.toNat) (by omega)
  rw [duty_eq_dutyFormula, ← uncut] at room
  rw [← uncut]
  exact workingDuty_toNat room s.tempo.multiplier

end Recompute

/-- The increments of a legal state are those `Recompute()` gives. -/
theorem recompute_of_inv {s : State} (h : Inv s) : recompute s = s := by
  have base : BitVec.ofNat 32 (duty s.par (effectiveTempo s.tempo).toNat) = s.tempo.baseDutyCycle := by
    rw [← h.baseDuty, BitVec.ofNat_toNat, BitVec.setWidth_eq]
  have working : workingDuty s.tempo.baseDutyCycle s.tempo.multiplier = s.tempo.workingDutyCycle :=
    BitVec.eq_of_toNat_eq ((workingDuty_toNat h.baseDuty_room _).trans h.workingDuty.symm)
  simp only [recompute, base, working]

/-! ### `SET_BASE_TEMPO` (R154, R155) -/

theorem commits_iff {p : Params} {base : Half} {ms : Nat} :
    Commits p base ms ↔ tempoInRange p ms ∧ ¬ tempoRedundant base ms := by
  rw [and_assoc, not_le]

section Commit
variable {s : State} {ms : Nat} (ok : s.par.Ok) (range : tempoInRange s.par ms)
include ok range

theorem lt_two_pow_of_tempoInRange : ms < 2 ^ 16 := by
  have := ok.lfoMinTempo_le
  omega

/-- A commit writes `ms` as it is. -/
theorem committedTempo_baseTempo_toNat : (committedTempo s.par ms s.tempo).baseTempo.toNat = ms :=
  Nat.mod_eq_of_lt (lt_two_pow_of_tempoInRange ok range)

/-- `Recompute()` after a commit gives the committed tempo model: the base increment is not cut before it is scaled. -/
theorem recompute_commit :
    recompute (withTempo (BitVec.ofNat 16 ms) 0 s) = { s with tempo := committedTempo s.par ms s.tempo } := by
  have effective := effectiveTempo_commit (lt_two_pow_of_tempoInRange ok range) s.tempo
  simp only [recompute, withTempo, workingDuty, committedTempo, effective, Int.toNat_natCast,
    duty_toNat ok range.1.le, ← duty_eq_dutyFormula]

/-- The increments of a committed tempo fit 32 bits. -/
theorem committedTempo_duties_toNat :
    (committedTempo s.par ms s.tempo).baseDutyCycle.toNat = dutyFormula s.par ms ∧
    (committedTempo s.par ms s.tempo).workingDutyCycle.toNat =
      dutyFormula s.par ms * ratioNum s.tempo.multiplier / ratioDen s.tempo.multiplier := by
  have effective : effectiveTempo (withTempo (BitVec.ofNat 16 ms) 0 s).tempo = ms :=
    effectiveTempo_commit (lt_two_pow_of_tempoInRange ok range) s.tempo
  have fastest : (s.par.lfoMaxTempo : Int) ≤ ms := Int.ofNat_le.mpr range.1.le
  have base := recompute_withTempo_baseDutyCycle ok effective fastest
  have working := recompute_withTempo_workingDutyCycle ok effective fastest
  rw [recompute_commit ok range] at base working
  exact ⟨base, working⟩

end Commit

/-- What `SetBaseTempo` does: it commits or changes nothing. -/
theorem setBaseTempo_eq_ite {s : State} (ok : s.par.Ok) (ms : Nat) :
    setBaseTempo ms s =
      if Commits s.par s.tempo.baseTempo ms then { s with tempo := committedTempo s.par ms s.tempo } else s := by
  split
  · next commits =>
    obtain ⟨range, far⟩ := commits_iff.mp commits
    exact (setBaseTempo_commit range far).trans (recompute_commit ok range)
  · next rejected =>
    rw [commits_iff, not_and_or, not_not] at rejected
    obtain out | near := rejected
    · exact setBaseTempo_out_of_range out
    · exact setBaseTempo_redundant near

theorem exec_setBaseTempo (ms : Nat) (s : State) : exec (.setBaseTempo ms) s = .next (setBaseTempo ms s) := rfl

/-- Settles O44, by the two cases of `SetBaseTempo`. -/
theorem setBaseTempoCommitsOrLeavesAll : Obligations.SetBaseTempoCommitsOrLeavesAll := by
  refine ⟨fun imm => decode_of_encode_eq (setBaseTempo_wellFormed imm) rfl (encode_setBaseTempo_eq_ofNat imm),
    fun ms s ok => ⟨?_, fun commits => ?_⟩⟩
  · rw [exec_setBaseTempo, setBaseTempo_eq_ite ok]
  · obtain ⟨range, -⟩ := commits_iff.mp commits
    exact ⟨committedTempo_baseTempo_toNat ok range, committedTempo_duties_toNat ok range⟩

/-! ### `ADJUST_SPEED` and `RESET_SPEED_ADJUST` (R156, R157) -/

/-- The state with the idle counter of `ADJUST_SPEED` cleared. -/
def clearSpeedIdle (s : State) : State := { s with counters := { s.counters with speedAdjustMsCount := 0 } }

/-- The range test of `ADJUST_SPEED`, inclusive at both ends (R156). -/
abbrev TrimAccepted (delta : Int) (s : State) : Prop :=
  (s.par.lfoMaxTempo : Int) ≤ effectiveTempo s.tempo + delta ∧
    effectiveTempo s.tempo + delta ≤ (s.par.lfoMinTempo : Int)

section AdjustSpeed
variable {delta : Int} {s : State}

theorem exec_adjustSpeed_accepted (accepted : TrimAccepted delta s) :
    exec (.adjustSpeed delta) s =
      .next (recompute (withTempo s.tempo.baseTempo (BitVec.ofInt 16 (s.tempo.tempoAdjustOffset.toInt + delta))
        (clearSpeedIdle s))) :=
  if_neg (not_or.mpr ⟨not_lt.mpr accepted.1, not_lt.mpr accepted.2⟩)

theorem exec_adjustSpeed_rejected (rejected : ¬ TrimAccepted delta s) :
    exec (.adjustSpeed delta) s = .next (clearSpeedIdle s) :=
  if_pos ((not_and_or.mp rejected).imp not_le.mp not_le.mp)

/-- An accepted trim is the distance of two tempos in range, which R8 keeps to 16 bits. -/
theorem Inv.trim_toInt (h : Inv s) (accepted : TrimAccepted delta s) :
    (BitVec.ofInt 16 (s.tempo.tempoAdjustOffset.toInt + delta)).toInt = s.tempo.tempoAdjustOffset.toInt + delta := by
  have range := h.baseTempo
  have span := h.params.tempoSpan_le
  obtain ⟨lower, upper⟩ := accepted
  unfold effectiveTempo at lower upper
  exact BitVec.toInt_ofInt_eq_self (by decide) (by omega) (by omega)

end AdjustSpeed

/-- Settles O45, by the two outcomes of the range test. -/
theorem adjustSpeedTrimsOrOnlyClearsTheIdleCounter : Obligations.AdjustSpeedTrimsOrOnlyClearsTheIdleCounter := by
  refine ⟨fun imm => decode_of_encode_eq (adjustSpeed_wellFormed imm) rfl (encode_adjustSpeed_eq_ofNat imm),
    fun delta s h => ?_⟩
  intro offset e cleared
  have tested : effectiveTempo s.tempo + delta = e := add_assoc _ _ _
  split
  · next inRange =>
    have accepted : TrimAccepted delta s := by rwa [TrimAccepted, tested]
    have trim := h.trim_toInt accepted
    have effective : effectiveTempo (withTempo s.tempo.baseTempo (BitVec.ofInt 16 offset) cleared).tempo = e :=
      congrArg (_ + ·) trim
    exact ⟨_, exec_adjustSpeed_accepted accepted, trim,
      recompute_withTempo_baseDutyCycle (s := cleared) h.params effective inRange.1,
      recompute_withTempo_workingDutyCycle (s := cleared) h.params effective inRange.1, rfl⟩
  · next outside => exact exec_adjustSpeed_rejected (by rwa [TrimAccepted, tested])

theorem exec_resetSpeedAdjust (s : State) :
    exec .resetSpeedAdjust s = .next (recompute (withTempo s.tempo.baseTempo 0 s)) := rfl

/-- With no trim the effective tempo is the base tempo. -/
theorem effectiveTempo_untrimmed (base : Half) (s : State) :
    effectiveTempo (withTempo base 0 s).tempo = base.toNat := add_zero _

/-- Settles O46: without a trim `Recompute()` sees the base tempo, and in a legal state it gives what is held. -/
theorem resetSpeedAdjustClearsTheTrim : Obligations.ResetSpeedAdjustClearsTheTrim := by
  refine ⟨decode_of_encode_eq (i := .resetSpeedAdjust) rfl rfl rfl, fun s => ⟨?_, fun h untrimmed => ?_⟩⟩
  · rw [exec_resetSpeedAdjust, recompute, effectiveTempo_untrimmed, Int.toNat_natCast, duty_eq_dutyFormula]
    rfl
  · have held : withTempo s.tempo.baseTempo 0 s = s := by rw [withTempo, ← untrimmed]
    rw [exec_resetSpeedAdjust, held, recompute_of_inv h]

/-! ### `SET_MULTIPLIER` and `RESET_MULTIPLIER` (R158, R159) -/

theorem exec_setMultiplier (dir : Dir) (s : State) :
    exec (.setMultiplier dir) s = .next (changeMultiplier (stepMultiplier s.tempo.multiplier dir) s) := rfl

theorem exec_resetMultiplier (s : State) : exec .resetMultiplier s = .next (changeMultiplier .quarter s) := rfl

/-- `SET_MULTIPLIER` moves the code by one within 0..9, as the least and greatest of numbers. -/
theorem multiplierCode_stepMultiplier (m : Multiplier) (d : Dir) :
    (multiplierCode (stepMultiplier m d) : Int) = max 0 (min 9 ((multiplierCode m : Int) + dirValue d)) := by
  have clamped : clamp ((multiplierCode m : Int) + dirValue d) 0 9 =
      max 0 (min 9 ((multiplierCode m : Int) + dirValue d)) := by
    unfold clamp
    split_ifs <;> omega
  rw [stepMultiplier, clamped, multiplierCode_ofCode (by omega)]
  omega

theorem multiplierCode_injective {m n : Multiplier} (h : multiplierCode m = multiplierCode n) : m = n := by
  rw [← multiplierOfCode_code m, h, multiplierOfCode_code]

/-- Settles O47, by the two cases of a change: the code stays at an end, or it moves. -/
theorem setMultiplierStepsAndAdjustsThePhase : Obligations.SetMultiplierStepsAndAdjustsThePhase := by
  refine ⟨⟨decode_of_encode_eq (i := .setMultiplier .plus) rfl rfl rfl,
    decode_of_encode_eq (i := .setMultiplier .minus) rfl rfl rfl⟩, fun dir s => ?_⟩
  intro new
  have code : (multiplierCode (stepMultiplier s.tempo.multiplier dir) : Int) = new :=
    multiplierCode_stepMultiplier _ dir
  rw [exec_setMultiplier]
  split
  · next same =>
    have held : stepMultiplier s.tempo.multiplier dir = s.tempo.multiplier := multiplierCode_injective (by omega)
    rw [held, changeMultiplier_same]
  · next changed =>
    have moved : stepMultiplier s.tempo.multiplier dir ≠ s.tempo.multiplier :=
      fun held => changed (by rw [← code, held])
    refine ⟨_, code, ?_⟩
    rw [changeMultiplier_ne moved]
    rfl

/-- At Quarter the ratio is 1, so the increments agree. -/
theorem workingDuty_quarter (bd : Word) : workingDuty bd .quarter = bd := by
  simp [workingDuty, ratioNum, ratioDen]

/-- At Quarter the phase formula only multiplies by the alignment index. -/
theorem adjustedPhase_quarter (b : Word) (mai : BitVec 4) :
    adjustedPhase b .quarter mai = BitVec.ofNat 32 (b.toNat * mai.toNat) := by
  rw [adjustedPhase, ratioNum, ratioDen, mul_one, Nat.div_one]

/-- Settles O48: a change to Quarter, whose ratio is 1. -/
theorem resetMultiplierRestoresQuarter : Obligations.ResetMultiplierRestoresQuarter := by
  refine ⟨decode_of_encode_eq (i := .resetMultiplier) rfl rfl rfl, fun s => ?_⟩
  rw [exec_resetMultiplier]
  split
  · next held => rw [← held, changeMultiplier_same]
  · next other =>
    rw [changeMultiplier_ne (Ne.symm other), adjustPhaseAccumulation, adjustedPhase_quarter, workingDuty_quarter]

/-! ### The phase after a change (R153, R160) -/

theorem adjustedPhase_toNat (b : Word) (m : Multiplier) (mai : BitVec 4) :
    (adjustedPhase b m mai).toNat = b.toNat * ratioNum m * mai.toNat / ratioDen m % 2 ^ 32 := BitVec.toNat_ofNat _ _

/-- Settles O49: at index 1 the formula is the scaled base phase, at index 0 it is 0, and C4's example is evaluated. -/
theorem phaseFormulaDiffersFromItsRationale : Obligations.PhaseFormulaDiffersFromItsRationale := by
  refine ⟨fun b m => ⟨?_, ?_⟩, by decide, by decide⟩
  · have one : (1 : BitVec 4).toNat = 1 := rfl
    rw [adjustedPhase_toNat, one, mul_one]
  · have product : b.toNat * ratioNum m * (0 : BitVec 4).toNat / ratioDen m = 0 := by simp
    rw [adjustedPhase, product]
    rfl

end Sys2Proof.Machine
end

section
/-! SUPPORT. Taps and sync edges (spec/43_tap_sync.md): the two procedures element by element, the seeding of the
generator, and the count of milliseconds that follows a tap. -/

namespace Sys2Proof.Machine

/-! ### The two procedures (R181, R182) -/

theorem startTempoCount_eq (s : State) : startTempoCount s = startedState s := rfl

/-- What `StopTempoCount` hands to `SetBaseTempo` (R182). -/
def countStopped (s : State) : State :=
  { s with
    phase := { s.phase with
      basePhaseAccumulator := 0
      workingPhaseAccumulator := 0
      rngState := if SeedsNow s.flags then Config.rngSeed s.counters.tempoMsCount else s.phase.rngState }
    tempo := { s.tempo with multiplierAlignmentIndex := 0 }
    flags := { s.flags with
      isCountingTempo := false
      hasReceivedTapInput := true
      hasRandomSeed := if SeedsNow s.flags then true else s.flags.hasRandomSeed } }

theorem stopTempoCount_eq_setBaseTempo (s : State) :
    stopTempoCount s = setBaseTempo s.counters.tempoMsCount.toNat (countStopped s) := by
  rw [stopTempoCount, seedOnFirstStop_eq]
  rfl

/-- The tempo of a stop does not touch the flags. -/
@[simp] theorem stopTempoCount_flags (s : State) : (stopTempoCount s).flags = (countStopped s).flags := by
  rw [stopTempoCount_eq_setBaseTempo, setBaseTempo_flags]

/-- The tempo of a stop does not touch the phase engine. -/
@[simp] theorem stopTempoCount_phase (s : State) : (stopTempoCount s).phase = (countStopped s).phase := by
  rw [stopTempoCount_eq_setBaseTempo, setBaseTempo_phase]

/-- With legal parameters the tempo of a stop is the committed one or the one held. -/
theorem stopTempoCount_eq {s : State} (ok : s.par.Ok) : stopTempoCount s = stoppedState s := by
  rw [stopTempoCount_eq_setBaseTempo, setBaseTempo_eq_ite (s := countStopped s) ok]
  exact (apply_ite (fun tempo => { countStopped s with tempo := tempo })
    (Commits s.par s.tempo.baseTempo s.counters.tempoMsCount.toNat) _ _).symm

/-! ### The three events (R184 to R186) -/

section Events
variable (s : State)

theorem exec_tap_idle (idle : s.flags.isCountingTempo = false) : exec .tap s = .next (startTempoCount s) := if_pos idle

theorem exec_tap_counting (counting : s.flags.isCountingTempo = true) : exec .tap s = .next (stopTempoCount s) :=
  if_neg (by simp [counting])

theorem exec_syncRise : exec .syncRise s = .next (stopTempoCount s) := rfl

theorem exec_syncFall : exec .syncFall s = .next (startTempoCount s) := rfl

end Events

/-- Settles O50, by the two states of the machine. -/
theorem tapStartsOrStopsTheCount : Obligations.TapStartsOrStopsTheCount := by
  refine ⟨decode_of_encode_eq (i := .tap) rfl rfl rfl, fun s ok => ?_⟩
  split
  · next idle => rw [exec_tap_idle s idle, startTempoCount_eq]
  · next counting => rw [exec_tap_counting s (by simpa using counting), stopTempoCount_eq ok]

/-- Settles O51, by what a stop leaves. -/
theorem syncRiseStopsTheCount : Obligations.SyncRiseStopsTheCount := by
  refine ⟨⟨decode_of_encode_eq (i := .syncRise) rfl rfl rfl, decode_ext_encode_internal (i := .syncRise) rfl⟩,
    fun s ok => ?_⟩
  rw [exec_syncRise, stopTempoCount_eq ok]

/-- Settles O52, by what a start leaves. -/
theorem syncFallStartsTheCount : Obligations.SyncFallStartsTheCount := by
  refine ⟨⟨decode_of_encode_eq (i := .syncFall) rfl rfl rfl, decode_ext_encode_internal (i := .syncFall) rfl⟩,
    fun s => ?_⟩
  rw [exec_syncFall, startTempoCount_eq]

/-! ### One millisecond tick, for the count (R200, R201) -/

@[simp] theorem tempoCountStep_flags (s : State) :
    (tempoCountStep s).flags =
      { s.flags with
        isCountingTempo :=
          s.flags.isCountingTempo && decide ((s.counters.tempoMsCount + 1).toNat ≤ s.par.lfoMinTempo) } := by
  rw [tempoCountStep_eq]

@[simp] theorem tempoCountStep_counters (s : State) :
    (tempoCountStep s).counters =
      { s.counters with
        tempoMsCount :=
          if s.flags.isCountingTempo then s.counters.tempoMsCount + 1 else s.counters.tempoMsCount } := by
  rw [tempoCountStep_eq]

/-- The hold timer leaves the flags of the tap count. -/
@[simp] theorem modeHoldStep_tapFlags (s : State) :
    (modeHoldStep s).flags.isCountingTempo = s.flags.isCountingTempo ∧
    (modeHoldStep s).flags.hasReceivedTapInput = s.flags.hasReceivedTapInput ∧
    (modeHoldStep s).flags.hasRandomSeed = s.flags.hasRandomSeed := by
  rw [modeHoldStep_eq]
  split <;> exact ⟨rfl, rfl, rfl⟩

@[simp] theorem modeHoldStep_tempoMsCount (s : State) :
    (modeHoldStep s).counters.tempoMsCount = s.counters.tempoMsCount := by
  rw [modeHoldStep_eq]
  split <;> rfl

@[simp] theorem speedIdleStep_tempoMsCount (s : State) :
    (speedIdleStep s).counters.tempoMsCount = s.counters.tempoMsCount := by
  rw [speedIdleStep_eq]

/-- What a millisecond tick leaves (R200). -/
def msTicked (s : State) : State := speedIdleStep (modeHoldStep (tempoCountStep (emitDebounceReq s)))

theorem exec_msTick (s : State) : exec .msTick s = .next (msTicked s) := rfl

section MsTicked
variable (s : State)

@[simp] theorem msTicked_par : (msTicked s).par = s.par := by simp [msTicked]

@[simp] theorem msTicked_tempo : (msTicked s).tempo = s.tempo := by simp [msTicked]

@[simp] theorem msTicked_phase : (msTicked s).phase = s.phase := by simp [msTicked]

@[simp] theorem msTicked_hasReceivedTapInput :
    (msTicked s).flags.hasReceivedTapInput = s.flags.hasReceivedTapInput := by simp [msTicked]

@[simp] theorem msTicked_hasRandomSeed : (msTicked s).flags.hasRandomSeed = s.flags.hasRandomSeed := by
  simp [msTicked]

@[simp] theorem msTicked_isCountingTempo :
    (msTicked s).flags.isCountingTempo =
      (s.flags.isCountingTempo && decide ((s.counters.tempoMsCount + 1).toNat ≤ s.par.lfoMinTempo)) := by
  simp [msTicked]

@[simp] theorem msTicked_tempoMsCount :
    (msTicked s).counters.tempoMsCount =
      if s.flags.isCountingTempo then s.counters.tempoMsCount + 1 else s.counters.tempoMsCount := by
  rw [msTicked, speedIdleStep_tempoMsCount, modeHoldStep_tempoMsCount, tempoCountStep_counters]
  rfl

end MsTicked

/-- A run of millisecond ticks. -/
theorem runTrace_msTick (n : Nat) (s : State) :
    runTrace (List.replicate n (.event .msTick)) s = .next (msTicked^[n] s) := by
  induction n generalizing s with
  | zero => rfl
  | succ n ih =>
    rw [List.replicate_succ, runTrace_cons, runItem, exec_msTick, andThen_next, ih, Function.iterate_succ_apply]

/-! ### Seeding (R183) -/

/-- The events that run `StopTempoCount` (R184, R185). -/
abbrev Stops (i : Instr) (s : State) : Prop := i = .syncRise ∨ (i = .tap ∧ s.flags.isCountingTempo = true)

theorem exec_of_stops {i : Instr} {s : State} (stops : Stops i s) : exec i s = .next (stopTempoCount s) := by
  obtain rfl | ⟨rfl, counting⟩ := stops
  · exact exec_syncRise s
  · exact exec_tap_counting s counting

/-- The generator and the two flags about its seed are those of `s`. -/
structure SeedingKept (s t : State) : Prop where
  received : t.flags.hasReceivedTapInput = s.flags.hasReceivedTapInput
  seeded : t.flags.hasRandomSeed = s.flags.hasRandomSeed
  generator : t.phase.rngState = s.phase.rngState

theorem changeMultiplier_seedingKept (m : Multiplier) (s : State) : SeedingKept s (changeMultiplier m s) := by
  unfold changeMultiplier
  split <;> constructor <;> rfl

theorem msTicked_seedingKept (s : State) : SeedingKept s (msTicked s) := by constructor <;> simp

/-- No event but a stop and a sample tick reaches the generator or its flags. -/
theorem exec_seedingKept {i : Instr} {s t : State} (he : exec i s = .next t) (running : ¬ Stops i s)
    (noTick : i ≠ .sampleTick) : SeedingKept s t := by
  cases i with
  | setMultiplier dir => cases he; exact changeMultiplier_seedingKept _ s
  | resetMultiplier => cases he; exact changeMultiplier_seedingKept _ s
  | setDepth dir => obtain ⟨_, rfl⟩ | ⟨_, rfl⟩ := execSetDepth_cases he <;> constructor <;> rfl
  | adjustSpeed delta => obtain rfl | ⟨_, _, rfl⟩ := execAdjustSpeed_cases he <;> constructor <;> rfl
  | tap =>
    obtain ⟨_, rfl⟩ | ⟨counting, _⟩ := execTap_cases he
    · constructor <;> rfl
    · exact absurd (.inr ⟨rfl, counting⟩) running
  | sampleTick => exact absurd rfl noTick
  | msTick => cases he; exact msTicked_seedingKept s
  | syncRise => exact absurd (.inl rfl) running
  | _ => cases he; constructor <;> simp

/-- A sample tick leaves the generator, or moves it on by a draw (R135). -/
theorem ticked_rngState (s : State) :
    (ticked s).phase.rngState = s.phase.rngState ∨
      (ticked s).phase.rngState = (Config.rngNext s.phase.rngState).2 := by
  by_cases wrap : WrapNext s
  · exact .inr (if_pos wrap)
  · exact .inl (if_neg wrap)

/-- Settles O53: a stop, with and without the seeding, a sample tick, and every other event. -/
theorem generatorIsSeededOnce : Obligations.GeneratorIsSeededOnce := by
  intro i s t he
  show (Stops i s → _) ∧ (Stops i s → _) ∧ (¬ (Stops i s ∧ _) → _) ∧ (¬ Stops i s → _)
  by_cases stops : Stops i s
  · obtain rfl := Host.Outcome.next.inj ((exec_of_stops stops).symm.trans he)
    by_cases seeds : SeedsNow s.flags <;> simp [stops, seeds, countStopped]
  · by_cases tick : i = .sampleTick
    · subst tick
      obtain rfl := Host.Outcome.next.inj ((exec_sampleTick s).symm.trans he)
      exact ⟨fun h => absurd h stops, fun h => absurd h stops,
        fun _ => ⟨rfl, (ticked_rngState s).imp_right fun drawn => ⟨rfl, drawn⟩⟩, fun _ => rfl⟩
    · have kept := exec_seedingKept he stops tick
      exact ⟨fun h => absurd h stops, fun h => absurd h stops, fun _ => ⟨kept.seeded, .inl kept.generator⟩,
        fun _ => kept.received⟩

/-! ### The timeout (R189, R201) -/

/-- `t` is `s` with a count open since `n` milliseconds, or timed out: the count goes one past `LFO_MIN_TEMPO` and
stays there. -/
structure CountedSince (s : State) (n : Nat) (t : State) : Prop where
  par : t.par = s.par
  tempo : t.tempo = { s.tempo with multiplierAlignmentIndex := 0 }
  received : t.flags.hasReceivedTapInput = s.flags.hasReceivedTapInput
  counting : t.flags.isCountingTempo = decide (n ≤ s.par.lfoMinTempo)
  count : t.counters.tempoMsCount.toNat = min n (s.par.lfoMinTempo + 1)

theorem startTempoCount_countedSince (s : State) : CountedSince s 0 (startTempoCount s) where
  par := rfl
  tempo := rfl
  received := rfl
  counting := by simp
  count := by simp

/-- A tick counts on while the count is open; R8 leaves the counter room for the one past `LFO_MIN_TEMPO`. -/
theorem CountedSince.tick {s t : State} {n : Nat} (ok : s.par.Ok) (h : CountedSince s n t) :
    CountedSince s (n + 1) (msTicked t) := by
  have held := h.count
  have next : n ≤ s.par.lfoMinTempo → (t.counters.tempoMsCount + 1).toNat = n + 1 := fun inTime => by
    have room := ok.lfoMinTempo_le
    rw [BitVec.toNat_add_of_lt (by simp; omega), held, min_eq_left (by omega)]
    rfl
  refine ⟨by simp [h.par], by simp [h.tempo], by simp [h.received], ?_, ?_⟩
  · rw [msTicked_isCountingTempo, h.counting, h.par, ← Bool.decide_and, decide_eq_decide]
    omega
  · rw [msTicked_tempoMsCount, h.counting]
    by_cases inTime : n ≤ s.par.lfoMinTempo
    · rw [if_pos (decide_eq_true inTime), next inTime]
      omega
    · rw [if_neg (by simpa using inTime), held]
      omega

theorem countedSince_iterate {s : State} (ok : s.par.Ok) (n : Nat) :
    CountedSince s n (msTicked^[n] (startTempoCount s)) := by
  induction n with
  | zero => exact startTempoCount_countedSince s
  | succ n ih =>
    rw [Function.iterate_succ_apply']
    exact ih.tick ok

/-- Settles O55, by the count after `n` ticks. -/
theorem unfinishedTapTimesOut : Obligations.UnfinishedTapTimesOut := by
  intro s n h idle
  have counted := countedSince_iterate h.params n
  refine ⟨_, ?_, counted.tempo, counted.received, fun inTime => ?_, fun late => ?_⟩
  · rw [runTrace_cons, runItem, exec_tap_idle s idle, andThen_next, runTrace_msTick]
  · simp [counted.counting, counted.count]; omega
  · simp [counted.counting, counted.count]; omega

end Sys2Proof.Machine
end

section
/-! PROOFS. The tick dispatcher and the system commands: what a millisecond tick leaves, the hold timer and the idle
counter along a run of ticks, and the commands that write flags (R200 to R207). -/

namespace Sys2Proof

theorem Params.Ok.modeResetMinTime_le {p : Params} (h : p.Ok) : p.modeResetMinTime ≤ 65535 := h.2.2.2.2.1.2

end Sys2Proof

namespace Sys2Proof.Machine

/-! ### One millisecond tick, every element (R200 to R203) -/

/-- The next millisecond tick ends the hold (R202). -/
def holdExpires (s : State) : Bool :=
  s.flags.isCountingModeResetTime && decide (s.par.modeResetMinTime ≤ (s.counters.modeResetMsCount + 1).toNat)

/-- The hold timer step, element by element. -/
theorem modeHoldStep_eq_of_holdExpires (s : State) :
    modeHoldStep s =
      { s with
        flags := { s.flags with
          isCountingModeResetTime := s.flags.isCountingModeResetTime && !holdExpires s
          isResettingMode := s.flags.isResettingMode || holdExpires s }
        counters := { s.counters with
          modeResetMsCount :=
            if holdExpires s then 0
            else if s.flags.isCountingModeResetTime then s.counters.modeResetMsCount + 1
            else s.counters.modeResetMsCount }
        out := { s.out with modeResetReq := s.out.modeResetReq || holdExpires s } } := by
  have tested : holdExpires s = true ↔ s.flags.isCountingModeResetTime = true ∧
      s.par.modeResetMinTime ≤ (s.counters.modeResetMsCount + 1).toNat := by simp [holdExpires]
  rw [modeHoldStep_eq]
  by_cases expires : holdExpires s = true
  · rw [if_pos (tested.mp expires)]
    simp [expires]
  · rw [if_neg (mt tested.mpr expires)]
    simp [expires]

/-- A tick's four steps, put together. -/
theorem msTicked_eq (s : State) :
    msTicked s =
      { s with
        counters :=
          { tempoMsCount :=
              if s.flags.isCountingTempo then s.counters.tempoMsCount + 1 else s.counters.tempoMsCount
            modeResetMsCount :=
              if holdExpires s then 0
              else if s.flags.isCountingModeResetTime then s.counters.modeResetMsCount + 1
              else s.counters.modeResetMsCount
            speedAdjustMsCount :=
              if s.counters.speedAdjustMsCount.toNat < 0xFFFF then s.counters.speedAdjustMsCount + 1
              else s.counters.speedAdjustMsCount }
        flags := { s.flags with
          isCountingTempo :=
            s.flags.isCountingTempo && decide ((s.counters.tempoMsCount + 1).toNat ≤ s.par.lfoMinTempo)
          isCountingModeResetTime := s.flags.isCountingModeResetTime && !holdExpires s
          isResettingMode := s.flags.isResettingMode || holdExpires s }
        out := { s.out with debounceReq := true, modeResetReq := s.out.modeResetReq || holdExpires s } } := by
  rw [msTicked, speedIdleStep_eq, modeHoldStep_eq_of_holdExpires, tempoCountStep_eq]
  rfl

/-- Settles O56: the closed form of a tick, where a timeout is the count's failing to stay in time. -/
theorem msTickRunsTheFourSteps : Obligations.MsTickRunsTheFourSteps := by
  refine ⟨⟨decode_of_encode_eq (i := .msTick) rfl rfl rfl, decode_ext_encode_internal (i := .msTick) rfl⟩, fun s => ?_⟩
  intro counting holding tempoNext holdNext timeout expiry
  have inTime : (counting && decide (tempoNext.toNat ≤ s.par.lfoMinTempo)) = (counting && !timeout) := by
    rw [Bool.eq_iff_iff]
    simp +contextual [timeout]
  rw [exec_msTick, msTicked_eq, inTime]
  rfl

/-! ### The hold timer (R202, R204) -/

/-- What `MODE_HOLD_START` leaves (R204). -/
def holdStarted (s : State) : State :=
  { s with
    flags := { s.flags with isCountingModeResetTime := true, isResettingMode := false }
    counters := { s.counters with modeResetMsCount := 0 } }

theorem exec_modeHoldStart (s : State) : exec .modeHoldStart s = .next (holdStarted s) := rfl

/-- `t` is `s` with the hold timer running since `n` milliseconds. -/
structure HoldingSince (s : State) (n : Nat) (t : State) : Prop where
  par : t.par = s.par
  holding : t.flags.isCountingModeResetTime = true
  notResetting : t.flags.isResettingMode = false
  count : t.counters.modeResetMsCount.toNat = n
  pulse : t.out.modeResetReq = s.out.modeResetReq

theorem holdStarted_holdingSince (s : State) : HoldingSince s 0 (holdStarted s) := ⟨rfl, rfl, rfl, rfl, rfl⟩

section Holding
variable {s t : State} {n : Nat}

/-- While the timer runs, the next tick is the `n + 1`-th; R8 leaves the counter room for it. -/
theorem HoldingSince.count_succ (ok : s.par.Ok) (h : HoldingSince s n t) (early : n < s.par.modeResetMinTime) :
    (t.counters.modeResetMsCount + 1).toNat = n + 1 := by
  have room := ok.modeResetMinTime_le
  have held := h.count
  rw [BitVec.toNat_add_of_lt (by simp; omega), held]
  rfl

theorem HoldingSince.holdExpires_eq (ok : s.par.Ok) (h : HoldingSince s n t) (early : n < s.par.modeResetMinTime) :
    holdExpires t = decide (s.par.modeResetMinTime ≤ n + 1) := by
  rw [holdExpires, h.holding, h.count_succ ok early, h.par, Bool.true_and]

/-- Before the last tick the timer counts on. -/
theorem HoldingSince.tick (ok : s.par.Ok) (h : HoldingSince s n t) (early : n + 1 < s.par.modeResetMinTime) :
    HoldingSince s (n + 1) (msTicked t) := by
  have running : holdExpires t = false := by
    rw [h.holdExpires_eq ok (by omega)]
    exact decide_eq_false (by omega)
  refine ⟨by simp [h.par], ?_, ?_, ?_, ?_⟩ <;> rw [msTicked_eq]
  · simp [running, h.holding]
  · simp [running, h.notResetting]
  · simpa only [running, h.holding, Bool.false_eq_true, if_false, if_true] using h.count_succ ok (by omega)
  · simp [running, h.pulse]

theorem holdingSince_iterate (ok : s.par.Ok) (early : n < s.par.modeResetMinTime) :
    HoldingSince s n (msTicked^[n] (holdStarted s)) := by
  induction n with
  | zero => exact holdStarted_holdingSince s
  | succ n ih =>
    rw [Function.iterate_succ_apply']
    exact (ih (by omega)).tick ok early

/-- The last tick ends the hold and gives the pulse. -/
theorem HoldingSince.expire (ok : s.par.Ok) (h : HoldingSince s n t) (last : n + 1 = s.par.modeResetMinTime) :
    (msTicked t).flags.isCountingModeResetTime = false ∧ (msTicked t).flags.isResettingMode = true ∧
      (msTicked t).counters.modeResetMsCount = 0 ∧ (msTicked t).out.modeResetReq = true := by
  have expires : holdExpires t = true := by
    rw [h.holdExpires_eq ok (by omega)]
    exact decide_eq_true last.ge
  simp [msTicked_eq, expires]

end Holding

/-- Settles O57: the timer runs up to the last tick but one, and the last one ends it. -/
theorem holdTimerExpiresOnTime : Obligations.HoldTimerExpiresOnTime := by
  intro s n ok _
  refine ⟨_, by rw [runTrace_cons, runItem, exec_modeHoldStart, andThen_next, runTrace_msTick], fun early => ?_,
    fun last => ?_⟩
  · have held := holdingSince_iterate ok early
    exact ⟨held.holding, held.notResetting, held.count, held.pulse⟩
  · obtain ⟨k, rfl⟩ := Nat.exists_eq_succ_of_ne_zero (last ▸ ok.modeResetMinTime_pos).ne'
    rw [Function.iterate_succ_apply']
    exact (holdingSince_iterate ok (last ▸ k.lt_succ_self)).expire ok last

/-! ### The idle counter (R203) -/

/-- `ADJUST_SPEED` clears the idle counter, accepted or rejected (R156). -/
theorem exec_adjustSpeed_clears (delta : Int) (s : State) :
    ∃ t, exec (.adjustSpeed delta) s = .next t ∧ t.counters.speedAdjustMsCount = 0 := by
  by_cases accepted : TrimAccepted delta s
  · exact ⟨_, exec_adjustSpeed_accepted accepted, rfl⟩
  · exact ⟨_, exec_adjustSpeed_rejected accepted, rfl⟩

theorem msTicked_speedAdjustMsCount_toNat (s : State) :
    (msTicked s).counters.speedAdjustMsCount.toNat = min 0xFFFF (s.counters.speedAdjustMsCount.toNat + 1) := by
  have width := s.counters.speedAdjustMsCount.isLt
  rw [msTicked_eq]
  dsimp only
  split
  · next room =>
    rw [BitVec.toNat_add_of_lt (by simp; omega), min_eq_right (by simp; omega)]
    rfl
  · omega

theorem msTicked_iterate_speedAdjustMsCount_toNat {s : State} (cleared : s.counters.speedAdjustMsCount = 0) (n : Nat) :
    (msTicked^[n] s).counters.speedAdjustMsCount.toNat = min 0xFFFF n := by
  induction n with
  | zero => simp [cleared]
  | succ n ih =>
    rw [Function.iterate_succ_apply', msTicked_speedAdjustMsCount_toNat, ih]
    omega

/-- Settles O58: both outcomes of `ADJUST_SPEED` start the counter at 0. -/
theorem idleCounterCountsSinceTheLastAdjustment : Obligations.IdleCounterCountsSinceTheLastAdjustment := by
  intro s delta n
  obtain ⟨t, adjusted, cleared⟩ := exec_adjustSpeed_clears delta s
  exact ⟨_, by rw [runTrace_cons, runItem, adjusted, andThen_next, runTrace_msTick],
    msTicked_iterate_speedAdjustMsCount_toNat cleared n⟩

/-! ### The system commands (R204 to R207) -/

theorem exec_modeHoldEnd (s : State) :
    exec .modeHoldEnd s =
      .next { s with
        flags := { s.flags with isCountingModeResetTime := false, isResettingMode := false }
        counters := { s.counters with modeResetMsCount := 0 } } := rfl

theorem exec_nop (s : State) : exec .nop s = .next s := rfl

theorem exec_clearStatus (s : State) :
    exec .clearStatus s = .next { s with flags := { s.flags with ill := false } } := rfl

/-- Settles O59: the words are those of the events, and the word of an event is its own. -/
theorem systemCommandsWriteOnlyTheirFlags : Obligations.SystemCommandsWriteOnlyTheirFlags := by
  refine ⟨⟨decode_of_encode_eq (i := .modeHoldStart) rfl rfl rfl, decode_of_encode_eq (i := .modeHoldEnd) rfl rfl rfl,
    decode_of_encode_eq (i := .nop) rfl rfl rfl, decode_of_encode_eq (i := .clearStatus) rfl rfl rfl,
    fun w => eq_zero_of_decode_nop⟩, fun s => ?_⟩
  exact ⟨exec_modeHoldStart s, exec_modeHoldEnd s, exec_nop s, exec_clearStatus s⟩

end Sys2Proof.Machine
end

section
/-! PROOFS. PWM and timing: what no event writes, a cycle as its events in the fixed order between two edges, and the
timing registers along a run of cycles without reset (spec/45_pwm_and_timing.md R220 to R230). -/

namespace Sys2Proof.Machine

/-! ### What no event writes (R48, R72, R222) -/

/-- The events between `s` and `t` left alone what the timing layer owns: its registers, the parameters, the pins to
come, and the level that the cycle drives on `pwm_out`. -/
structure TimingKept (s t : State) : Prop where
  timing : t.timing = s.timing
  par : t.par = s.par
  inputs : t.inputs = s.inputs
  pwmOut : t.out.pwmOut = s.out.pwmOut

theorem TimingKept.refl (s : State) : TimingKept s s := ⟨rfl, rfl, rfl, rfl⟩

theorem TimingKept.trans {s t u : State} (first : TimingKept s t) (second : TimingKept t u) : TimingKept s u where
  timing := second.timing.trans first.timing
  par := second.par.trans first.par
  inputs := second.inputs.trans first.inputs
  pwmOut := second.pwmOut.trans first.pwmOut

theorem changeMultiplier_timingKept (m : Multiplier) (s : State) : TimingKept s (changeMultiplier m s) := by
  constructor <;> simp

theorem stopTempoCount_timingKept (s : State) : TimingKept s (stopTempoCount s) := by
  rw [stopTempoCount_eq_setBaseTempo]
  constructor <;> simp [countStopped]

theorem msTicked_timingKept (s : State) : TimingKept s (msTicked s) := by
  rw [msTicked_eq]
  exact ⟨rfl, rfl, rfl, rfl⟩

/-- Every event answers a next state, and the timing layer is as it was (R48, R250). -/
theorem exec_timingKept (i : Instr) (s : State) : ∃ t, exec i s = .next t ∧ TimingKept s t := by
  cases i with
  | setMultiplier dir => exact ⟨_, rfl, changeMultiplier_timingKept _ s⟩
  | resetMultiplier => exact ⟨_, rfl, changeMultiplier_timingKept _ s⟩
  | setDepth dir =>
    by_cases same : stepDepth s.wave.depthRatio dir = s.wave.depthRatio
    · exact ⟨_, exec_setDepth_same same, .refl s⟩
    · exact ⟨_, exec_setDepth_changed same, rfl, rfl, rfl, rfl⟩
  | adjustSpeed delta =>
    by_cases accepted : TrimAccepted delta s
    · exact ⟨_, exec_adjustSpeed_accepted accepted, rfl, rfl, rfl, rfl⟩
    · exact ⟨_, exec_adjustSpeed_rejected accepted, rfl, rfl, rfl, rfl⟩
  | setBaseTempo ms => exact ⟨_, rfl, by constructor <;> simp⟩
  | tap =>
    cases counting : s.flags.isCountingTempo with
    | false => exact ⟨_, exec_tap_idle s counting, rfl, rfl, rfl, rfl⟩
    | true => exact ⟨_, exec_tap_counting s counting, stopTempoCount_timingKept s⟩
  | syncRise => exact ⟨_, exec_syncRise s, stopTempoCount_timingKept s⟩
  | sampleTick => exact ⟨_, exec_sampleTick s, rfl, rfl, rfl, rfl⟩
  | msTick => exact ⟨_, exec_msTick s, msTicked_timingKept s⟩
  | _ => exact ⟨_, rfl, rfl, rfl, rfl, rfl⟩

theorem applyWord_timingKept (e : EventWord) (s : State) : ∃ t, applyWord e s = .next t ∧ TimingKept s t := by
  obtain ⟨src, word⟩ := e
  cases decoded : decode src word with
  | ok i =>
    rw [applyWord_ok decoded]
    exact exec_timingKept i s
  | error r => exact ⟨_, applyWord_error decoded s, rfl, rfl, rfl, rfl⟩

theorem applyWords_timingKept (es : List EventWord) (s : State) :
    ∃ t, applyWords es s = .next t ∧ TimingKept s t := by
  induction es generalizing s with
  | nil => exact ⟨s, rfl, .refl s⟩
  | cons e es ih =>
    obtain ⟨t, first, kept⟩ := applyWord_timingKept e s
    obtain ⟨u, others, kept'⟩ := ih t
    exact ⟨u, by rw [applyWords_cons, first, andThen_next, others], kept.trans kept'⟩

/-! ### The signals at the start of a cycle (R225, R228) -/

theorem sampleTickDue_eq (s : State) : sampleTickDue s = decide (s.timing.pwmCounter = 255) := rfl

theorem msTickDue_eq (s : State) : msTickDue s = decide (msCount s.par s.timing = s.par.msDiv - 1) := rfl

theorem syncRiseDue_eq (s : State) :
    syncRiseDue s = decide (s.timing.syncArm = 3 ∧ s.timing.sync2 = true ∧ s.timing.sync3 = false) := by
  rw [Bool.eq_iff_iff]
  simp [syncRiseDue, and_assoc]

theorem syncFallDue_eq (s : State) :
    syncFallDue s = decide (s.timing.syncArm = 3 ∧ s.timing.sync2 = false ∧ s.timing.sync3 = true) := by
  rw [Bool.eq_iff_iff]
  simp [syncFallDue, and_assoc]

/-! ### The events of a cycle in their order (R230) -/

theorem andThen_next_right (o : Host.Outcome State Fault Refusal) : andThen o .next = o := by
  cases o <;> rfl

theorem applyWords_singleton (e : EventWord) : applyWords [e] = applyWord e :=
  funext fun s => andThen_next_right (applyWord e s)

/-- A word that the timing layer generates under a signal runs its event under that signal. -/
theorem andThen_applyWords_signal {w : Word} {i : Instr} (decoded : decode .int w = .ok i) (signal : Bool)
    (o : Host.Outcome State Fault Refusal) :
    andThen o (applyWords (if signal then [(.int, w)] else [])) = runIf signal i o := by
  cases signal with
  | false => exact andThen_next_right o
  | true =>
    have word : applyWord (.int, w) = exec i := funext (applyWord_ok decoded)
    rw [if_pos rfl, applyWords_singleton, word]
    rfl

theorem andThen_applyWords_command (inp : Inputs) (o : Host.Outcome State Fault Refusal) :
    andThen o (applyWords (if inp.cmdValid then [(.ext, inp.cmdWord)] else [])) = runCommand inp o := by
  unfold runCommand
  cases inp.cmdValid with
  | false => exact andThen_next_right o
  | true =>
    rw [if_pos rfl, if_pos rfl, applyWords_singleton]
    cases decoded : decode .ext inp.cmdWord with
    | ok i => rw [funext (applyWord_ok decoded)]
    | error r =>
      rw [funext (applyWord_error decoded)]
      rfl

/-- The words of a cycle are its events one after another, under the signals of the start of the cycle (R230). -/
theorem applyWords_cycleEvents (inp : Inputs) (s start : State) :
    applyWords (cycleEvents inp s) start =
      runCommand inp (runIf (syncFallDue s) .syncFall (runIf (syncRiseDue s) .syncRise
        (runIf (msTickDue s) .msTick (runIf (sampleTickDue s) .sampleTick (.next start))))) := by
  have sample : decode .int 0x80000000#32 = .ok .sampleTick := decode_of_encode_eq (i := .sampleTick) rfl rfl rfl
  have ms : decode .int 0x81000000#32 = .ok .msTick := decode_of_encode_eq (i := .msTick) rfl rfl rfl
  have rise : decode .int 0x82000000#32 = .ok .syncRise := decode_of_encode_eq (i := .syncRise) rfl rfl rfl
  have fall : decode .int 0x83000000#32 = .ok .syncFall := decode_of_encode_eq (i := .syncFall) rfl rfl rfl
  rw [cycleEvents, applyWords_append, applyWords_append, applyWords_append, applyWords_append,
    andThen_applyWords_command, andThen_applyWords_signal fall, andThen_applyWords_signal rise,
    andThen_applyWords_signal ms, ← andThen_next start (applyWords _), andThen_applyWords_signal sample]

/-! ### One cycle without reset (R221, R225, R228, R230) -/

theorem byte_add_one_eq_ofNat (b : Byte) : b + 1 = BitVec.ofNat 8 ((b.toNat + 1) % 256) :=
  BitVec.eq_of_toNat_eq (by simp)

/-- Settles O6: the words of the cycle are the events in order, and these leave to the closing edge the timing
registers of the start of the cycle. -/
theorem cycleAppliesEventsInFixedOrder : Obligations.CycleAppliesEventsInFixedOrder := by
  intro s inp rest listed running T ms start afterSample afterMs afterRise afterFall
  have events : applyWords (cycleEvents inp { s with inputs := rest }) start = runCommand inp afterFall := by
    rw [applyWords_cycleEvents, sampleTickDue_eq, msTickDue_eq, syncRiseDue_eq, syncFallDue_eq]
    rfl
  obtain ⟨t, next, kept⟩ := applyWords_timingKept (cycleEvents inp { s with inputs := rest }) start
  rw [step_of_inputs listed, cycle_run running, ← events, next, andThen_next, andThen_next, closeCycle, kept.timing,
    kept.par, byte_add_one_eq_ofNat]
  rfl

/-- What a cycle with the pins `inp` and no reset leaves of the timing layer, whatever its events. -/
structure Clocked (inp : Inputs) (s t : State) : Prop where
  par : t.par = s.par
  pwmOut : t.out.pwmOut = pwmOut s.timing
  pwmCounter : t.timing.pwmCounter = s.timing.pwmCounter + 1
  pwmActive : t.timing.pwmActive = if s.timing.pwmCounter = 255 then t.phase.pwmDuty else s.timing.pwmActive
  msCounter : t.timing.msCounter = msNext s.par s.timing
  sync1 : t.timing.sync1 = inp.syncIn
  sync2 : t.timing.sync2 = s.timing.sync1
  sync3 : t.timing.sync3 = s.timing.sync2
  syncArm : t.timing.syncArm = if s.timing.syncArm.toNat < 3 then s.timing.syncArm + 1 else s.timing.syncArm

/-- A step without reset is some events, which leave the timing layer alone, between the two edges of the cycle. -/
theorem step_clocked {s : State} (running : (nextInputs s).rst = false) :
    ∃ t, step s = .next t ∧ t.inputs = s.inputs.tail ∧ Clocked (nextInputs s) s t := by
  obtain ⟨t, events, kept⟩ := applyWords_timingKept (cycleEvents (nextInputs s) (dropInputs s))
    (openCycle (nextInputs s) (dropInputs s))
  refine ⟨closeCycle (nextInputs s) t, by rw [step, cycle_run running, events, andThen_next], kept.inputs, ?_⟩
  refine ⟨kept.par, kept.pwmOut, ?_, ?_, ?_, ?_, ?_, ?_, ?_⟩ <;> simp [closeCycle, kept.timing, kept.par]

/-! ### Runs of cycles without reset -/

theorem runCycles_succ (n : Nat) (s : State) : runCycles (n + 1) s = andThen (runCycles n s) step := by
  induction n generalizing s with
  | zero => exact andThen_next_right (step s)
  | succ n ih =>
    calc runCycles (n + 2) s = andThen (step s) (fun t => andThen (runCycles n t) step) :=
          congrArg (andThen (step s)) (funext ih)
      _ = andThen (runCycles (n + 1) s) step := (andThen_assoc (step s) (runCycles n) step).symm

theorem nextInputs_eq_pinsAt {s t : State} {n : Nat} (listed : t.inputs = s.inputs.drop n) :
    nextInputs t = pinsAt s n := by
  simp [nextInputs, pinsAt, listed, List.headD_eq_head?_getD, List.getD_eq_getElem?_getD]

/-- After `n` cycles the next one runs with the pins listed for it. -/
theorem runCycles_clocked {s t : State} {n : Nat} (run : runCycles n s = .next t) (listed : t.inputs = s.inputs.drop n)
    (running : (pinsAt s n).rst = false) :
    ∃ u, runCycles (n + 1) s = .next u ∧ u.inputs = s.inputs.drop (n + 1) ∧ Clocked (pinsAt s n) t u := by
  rw [← nextInputs_eq_pinsAt listed] at running ⊢
  obtain ⟨u, next, rest, clocked⟩ := step_clocked running
  exact ⟨u, by rw [runCycles_succ, run, andThen_next, next], by rw [rest, listed, List.tail_drop], clocked⟩

/-- What holds before the first cycle, and what each cycle with the pins listed for it hands on to the next, holds
after `n` cycles without reset. -/
theorem runCycles_keeps {P : Nat → State → Prop} {s : State} (start : P 0 s)
    (cycle : ∀ k t u, P k t → Clocked (pinsAt s k) t u → P (k + 1) u) {n : Nat} (quiet : NoReset s n) :
    ∃ t, runCycles n s = .next t ∧ t.inputs = s.inputs.drop n ∧ P n t := by
  induction n with
  | zero => exact ⟨s, rfl, rfl, start⟩
  | succ n ih =>
    obtain ⟨t, run, listed, held⟩ := ih fun k before => quiet k (by omega)
    obtain ⟨u, run', listed', clocked⟩ := runCycles_clocked run listed (quiet n n.lt_succ_self)
    exact ⟨u, run', listed', cycle n t u held clocked⟩

/-! ### The counters of the timing layer (R221, R225, R226) -/

theorem Clocked.pwmCounter_toNat {inp : Inputs} {s t : State} (h : Clocked inp s t) :
    t.timing.pwmCounter.toNat = (s.timing.pwmCounter.toNat + 1) % 256 := by
  rw [h.pwmCounter, BitVec.toNat_add]
  rfl

/-- The counters `n` cycles after `s`. -/
structure CountersAfter (s : State) (n : Nat) (t : State) : Prop where
  par : t.par = s.par
  pwm : t.timing.pwmCounter.toNat = (s.timing.pwmCounter.toNat + n) % 256
  ms : t.timing.msCounter.toNat = (s.timing.msCounter.toNat + n) % s.par.msDiv

theorem CountersAfter.ms_lt {s t : State} {n : Nat} (ok : s.par.Ok) (h : CountersAfter s n t) :
    t.timing.msCounter.toNat < s.par.msDiv := by
  rw [h.ms]
  exact Nat.mod_lt _ (msDiv_pos ok)

theorem CountersAfter.cycle {s t u : State} {n : Nat} {inp : Inputs} (ok : s.par.Ok) (h : CountersAfter s n t)
    (clocked : Clocked inp t u) : CountersAfter s (n + 1) u where
  par := clocked.par.trans h.par
  pwm := by rw [clocked.pwmCounter_toNat, h.pwm, Nat.mod_add_mod, Nat.add_assoc]
  ms := by rw [clocked.msCounter, h.par, msNext_of_legal ok (h.ms_lt ok), h.ms, Nat.mod_add_mod, Nat.add_assoc]

theorem sampleTickDue_iff (s : State) : sampleTickDue s = true ↔ s.timing.pwmCounter.toNat = 255 := by
  rw [sampleTickDue_eq, decide_eq_true_iff, BitVec.toNat_eq]
  rfl

theorem msTickDue_iff {s : State} (ok : s.par.Ok) (legal : s.timing.msCounter.toNat < s.par.msDiv) :
    msTickDue s = true ↔ s.timing.msCounter.toNat = s.par.msDiv - 1 := by
  rw [msTickDue_eq, decide_eq_true_iff, msCount_of_legal ok legal]

/-- Settles O12: the counters advance by one in each cycle, and a tick is due at the last count of its period. -/
theorem tickCyclesArePeriodic : Obligations.TickCyclesArePeriodic := by
  intro s n ok legal quiet
  obtain ⟨t, run, -, after⟩ := runCycles_keeps (P := CountersAfter s)
    ⟨rfl, (Nat.mod_eq_of_lt s.timing.pwmCounter.isLt).symm, (Nat.mod_eq_of_lt legal).symm⟩
    (fun _ _ _ held clocked => held.cycle ok clocked) quiet
  refine ⟨t, run, after.par, after.pwm, after.ms, fun fromZero => ?_, fun fromZero => ?_⟩
  · rw [sampleTickDue_iff, after.pwm, fromZero]
    simp
  · rw [msTickDue_iff (after.par ▸ ok) (after.par ▸ after.ms_lt ok), after.ms, after.par, fromZero]
    simp

/-! ### One PWM period (R221, R222) -/

/-- `n` cycles into a PWM period that began in `s`. -/
structure InPwmPeriod (s : State) (n : Nat) (t : State) : Prop where
  counter : t.timing.pwmCounter.toNat = n
  active : t.timing.pwmActive = s.timing.pwmActive

section Period
variable {s t u : State} {n : Nat} {inp : Inputs}

/-- The level that the `n`-th cycle of the period drives (R222). -/
theorem InPwmPeriod.level (h : InPwmPeriod s n t) (clocked : Clocked inp t u) :
    u.out.pwmOut = decide (n < s.timing.pwmActive.toNat) := by
  rw [clocked.pwmOut, pwmOut, h.counter, h.active]

/-- `PwmActive` is loaded in the last cycle of the period only (R221). -/
theorem InPwmPeriod.active_next (h : InPwmPeriod s n t) (clocked : Clocked inp t u) :
    u.timing.pwmActive = if n = 255 then u.phase.pwmDuty else s.timing.pwmActive := by
  have last : t.timing.pwmCounter = 255 ↔ n = 255 := by
    rw [BitVec.toNat_eq, h.counter]
    rfl
  simp only [clocked.pwmActive, h.active, last]

theorem InPwmPeriod.cycle (h : InPwmPeriod s n t) (clocked : Clocked inp t u) (early : n < 255) :
    InPwmPeriod s (n + 1) u where
  counter := by rw [clocked.pwmCounter_toNat, h.counter, Nat.mod_eq_of_lt (by omega)]
  active := by rw [h.active_next clocked, if_neg early.ne]

end Period

/-- Settles O13: cycle `n` of the period finds the counter at `n` and `PwmActive` as the period began. -/
theorem pwmPeriodIsHighForPwmActiveCycles : Obligations.PwmPeriodIsHighForPwmActiveCycles := by
  intro s n fromZero inPeriod quiet
  have begins : InPwmPeriod s 0 s := ⟨by rw [fromZero]; rfl, rfl⟩
  have earlier : NoReset s n := fun k before => quiet k (by omega)
  obtain ⟨t, run, listed, period⟩ := runCycles_keeps (P := fun k t => k < 256 → InPwmPeriod s k t) (fun _ => begins)
    (fun k _ _ held clocked early => (held (by omega)).cycle clocked (by omega))
    earlier
  obtain ⟨u, run', -, clocked⟩ := runCycles_clocked run listed (quiet n n.lt_succ_self)
  exact ⟨u, run', (period inPeriod).level clocked, (period inPeriod).active_next clocked⟩

/-! ### Sync edges (R228, R229) -/

/-- `c` cycles after `SyncArm = 0`: each flop that the samples have reached holds the sample of its delay. -/
structure SamplesShifted (x : Nat → Bool) (c : Nat) (t : State) : Prop where
  arm : t.timing.syncArm.toNat = min c 3
  sync1 : 1 ≤ c → t.timing.sync1 = x (c - 1)
  sync2 : 2 ≤ c → t.timing.sync2 = x (c - 2)
  sync3 : 3 ≤ c → t.timing.sync3 = x (c - 3)

theorem SamplesShifted.cycle {x : Nat → Bool} {c : Nat} {inp : Inputs} {t u : State} (h : SamplesShifted x c t)
    (clocked : Clocked inp t u) (sampled : inp.syncIn = x c) : SamplesShifted x (c + 1) u where
  arm := by
    rw [clocked.syncArm, h.arm]
    split
    · next filling =>
      rw [BitVec.toNat_add, h.arm]
      show (min c 3 + 1) % 4 = min (c + 1) 3
      omega
    · rw [h.arm]
      omega
  sync1 _ := clocked.sync1.trans sampled
  sync2 reached := clocked.sync2.trans (h.sync1 (by omega))
  sync3 reached := clocked.sync3.trans (h.sync2 (by omega))

/-- The last two flops hold `new` after `old`, with the arming count full, just when the samples did (R229). -/
theorem SamplesShifted.edge_iff {x : Nat → Bool} {c : Nat} {t : State} (h : SamplesShifted x c t) (old new : Bool) :
    (t.timing.syncArm = 3 ∧ t.timing.sync2 = new ∧ t.timing.sync3 = old) ↔
      3 ≤ c ∧ x (c - 3) = old ∧ x (c - 2) = new := by
  have armed : t.timing.syncArm = 3 ↔ 3 ≤ c := by
    rw [BitVec.toNat_eq, h.arm]
    exact min_eq_right_iff
  rw [armed]
  refine and_congr_right fun full => ?_
  rw [h.sync2 (by omega), h.sync3 full, and_comm]

/-- Settles O14: the flops are a shift register of the samples, and an edge compares the last two once it is full. -/
theorem syncEdgesFollowTheSamples : Obligations.SyncEdgesFollowTheSamples := by
  intro s c unarmed quiet x
  obtain ⟨t, run, -, shifted⟩ := runCycles_keeps (P := SamplesShifted x)
    ⟨by rw [unarmed]; rfl, nofun, nofun, nofun⟩ (fun _ _ _ held clocked => held.cycle clocked rfl) quiet
  refine ⟨t, run, shifted.arm, shifted.sync2, shifted.sync3, ?_, ?_⟩
  · rw [syncRiseDue_eq, decide_eq_true_iff, shifted.edge_iff]
  · rw [syncFallDue_eq, decide_eq_true_iff, shifted.edge_iff]

end Sys2Proof.Machine
end

section
/-! PROOFS. Exceptions: the `ILL` flag along the events, the illegal words and reset (spec/60_exceptions.md R252). -/

namespace Sys2Proof.Machine

theorem msTicked_ill (s : State) : (msTicked s).flags.ill = s.flags.ill := by rw [msTicked_eq]

theorem stopTempoCount_ill (s : State) : (stopTempoCount s).flags.ill = s.flags.ill := by
  rw [stopTempoCount_flags]
  rfl

/-- Every event but `CLEAR_STATUS` leaves `ILL` as it finds it: the flags an event writes are those of the tap count, the
seed and the hold timer. -/
theorem exec_keeps_ill {i : Instr} {s t : State} (he : exec i s = .next t) (noClear : i ≠ .clearStatus) :
    t.flags.ill = s.flags.ill := by
  cases i with
  | clearStatus => exact absurd rfl noClear
  | setMultiplier dir => cases he; exact congrArg Flags.ill (changeMultiplier_flags _ s)
  | resetMultiplier => cases he; exact congrArg Flags.ill (changeMultiplier_flags _ s)
  | setDepth dir => obtain ⟨_, rfl⟩ | ⟨_, rfl⟩ := execSetDepth_cases he <;> rfl
  | adjustSpeed delta => obtain rfl | ⟨_, _, rfl⟩ := execAdjustSpeed_cases he <;> rfl
  | setBaseTempo ms => cases he; exact congrArg Flags.ill (setBaseTempo_flags ms s)
  | tap =>
    obtain ⟨_, rfl⟩ | ⟨_, rfl⟩ := execTap_cases he
    · rfl
    · exact stopTempoCount_ill s
  | syncRise => cases he; exact stopTempoCount_ill s
  | sampleTick => obtain rfl := Host.Outcome.next.inj ((exec_sampleTick s).symm.trans he); rfl
  | msTick => cases he; exact msTicked_ill s
  | _ => cases he; rfl

/-- A cycle with reset runs no event, so its reset value of `ILL` stands (R280, R282). -/
theorem resetCycle_ill {s t : State} (hrst : (nextInputs s).rst = true) (hs : step s = .next t) :
    t.flags.ill = false := by
  obtain rfl := Host.Outcome.next.inj ((cycle_reset hrst (dropInputs s)).symm.trans hs)
  rfl

/-- Settles O60: the events that keep `ILL`, the illegal words, and the two ways it is cleared. -/
theorem illegalFlagIsSticky : Obligations.IllegalFlagIsSticky := by
  refine ⟨fun i s t he noClear => exec_keeps_ill he noClear, fun w r s illegal => applyWord_error illegal s,
    fun s t he => ?_, fun s t hrst hs => resetCycle_ill hrst hs⟩
  obtain rfl := Host.Outcome.next.inj ((exec_clearStatus s).symm.trans he)
  rfl

end Sys2Proof.Machine
end

section
/-! PROOFS. Reset (spec/70_reset_and_hazards.md R280 to R282): what a cycle with reset leaves, at any parameters and at
the default ones. -/

namespace Sys2Proof.Machine

/-! ### What a reset writes (R282) -/

/-- The registers after a reset follow from the parameters alone; the pins and the ports are no registers. -/
theorem resetRegisters_of_par_eq {s u : State} (same : s.par = u.par) :
    resetRegisters s = { resetRegisters u with inputs := s.inputs, out := s.out } := by
  unfold resetRegisters
  rw [same]

/-- The parameters at the values of R7 give the registers of `State.reset`. -/
theorem resetRegisters_of_defaults {s : State} (atDefaults : s.par = Config.defaults) :
    resetRegisters s = { State.reset with inputs := s.inputs, out := s.out } := by
  rw [resetRegisters_of_par_eq (u := State.reset) atDefaults, resetRegisters_reset]

/-- The reset values of R282 at any parameters: `State.reset`, with the tempo of `DEFAULT_TEMPO`, its increment for
both accumulators, and the table of the supplied `SINE_Q`. -/
theorem resetRegisters_eq (s : State) :
    resetRegisters s =
      { State.reset with
        par := s.par
        tempo := { State.reset.tempo with
          baseTempo := BitVec.ofNat 16 s.par.defaultTempo
          baseDutyCycle := BitVec.ofNat 32 (dutyFormula s.par s.par.defaultTempo)
          workingDutyCycle := BitVec.ofNat 32 (dutyFormula s.par s.par.defaultTempo) }
        wave := { State.reset.wave with depthTable := (resetRegisters s).wave.depthTable }
        inputs := s.inputs
        out := s.out } := by
  rw [← duty_eq_dutyFormula]
  unfold resetRegisters
  rw [workingDuty_quarter]
  rfl

/-- A reset leaves the sine table at full depth, uncut (R40). -/
theorem tableRead_resetRegisters (s : State) (i : Byte) :
    (tableRead (resetRegisters s).wave.depthTable i).toNat = shape s.par.sineQ .sine i.toNat :=
  (tableNat_builtTable s.par.sineQ .sine le_rfl i.isLt).trans (calcSignalDepth_full _)

/-! ### The cycle with reset (R280) -/

/-- A cycle with reset opens as any other and goes straight to the reset values: its events are not run. -/
theorem step_of_reset {s : State} {inp : Inputs} {rest : List Inputs} (listed : s.inputs = inp :: rest)
    (hrst : inp.rst = true) : step s = .next (resetRegisters (openCycle inp { s with inputs := rest })) := by
  rw [step_of_inputs listed, cycle_reset hrst]

/-- Settles O17: the registers follow from the parameters alone, which a reset cycle keeps, so a second one writes what
the first one wrote. -/
theorem resetCycleSetsEveryRegister : Obligations.ResetCycleSetsEveryRegister := by
  intro s inp rest listed hrst
  refine ⟨_, step_of_reset listed hrst, resetRegisters_eq _, tableRead_resetRegisters _,
    fun atDefaults => resetRegisters_of_defaults atDefaults, fun inp' rest' listed' hrst' => ?_⟩
  exact ⟨_, step_of_reset listed' hrst', resetRegisters_of_par_eq rfl⟩

/-- Settles O19: the pins listed first are those of the cycle, and a reset needs nothing but legal parameters. -/
theorem resetCycleEstablishesInv : Obligations.ResetCycleEstablishesInv := by
  intro s t inp rest legal listed hrst hs
  have pins : nextInputs s = inp := by
    rw [nextInputs, listed]
    rfl
  exact resetCycle_inv legal (pins ▸ hrst) hs

/-! ### The reset values at the default parameters -/

/-- The table that lists nothing is the default sine table (R40). -/
theorem tableRead_reset (i : Byte) :
    (tableRead State.reset.wave.depthTable i).toNat = shape Config.defaultSineQ .sine i.toNat := by
  rw [← resetRegisters_reset]
  exact tableRead_resetRegisters State.reset i

/-- Settles O16: each element holds the value R282 gives it, 137438 being the increment of 1000 ms and the depth offset
of 100 being 0; the table is what an unlisted entry reads as. -/
theorem resetValuesOfEveryElement : Obligations.ResetValuesOfEveryElement := by
  refine ⟨
    -- the tempo model
    rfl, rfl, rfl, rfl, rfl, rfl, rfl,
    -- the phase engine and the generator
    rfl, rfl, rfl, rfl, rfl, rfl, rfl, rfl,
    -- the waveform and its table
    rfl, rfl, rfl, tableRead_reset,
    -- the flags, the counters and the timing layer
    rfl, rfl, rfl⟩

end Sys2Proof.Machine
end

section
/-! PROOFS. Cycles: that every event and every cycle goes on and keeps the invariant, the cycle that runs one event, and
the output ports (spec/45_pwm_and_timing.md R222, R230 to R232; spec/10_state.md R47, R48; spec/60_exceptions.md R250). -/

namespace Sys2Proof.Machine

/-! ### The invariant along events, traces and cycles (R47) -/

/-- Settles O18: the reset values at the default parameters. -/
theorem invHoldsAtReset : Obligations.InvHoldsAtReset := reset_inv

/-- Settles O21: every event and every illegal word keeps the invariant, so every trace of them does. -/
theorem everyTraceKeepsInv : Obligations.EveryTraceKeepsInv := fun _ _ _ h hr => runTrace_inv h hr

theorem applyWord_inv {e : EventWord} {s t : State} (h : Inv s) (he : applyWord e s = .next t) : Inv t := by
  obtain ⟨src, word⟩ := e
  cases decoded : decode src word with
  | ok i => exact exec_inv h ((applyWord_ok decoded s).symm.trans he)
  | error r =>
    obtain rfl := Host.Outcome.next.inj ((applyWord_error decoded s).symm.trans he)
    exact illegalEvent_inv h

theorem applyWords_inv {es : List EventWord} {s t : State} (h : Inv s) (he : applyWords es s = .next t) : Inv t := by
  induction es generalizing s with
  | nil => cases he; exact h
  | cons e es ih =>
    obtain ⟨u, first, others⟩ := andThen_eq_next.mp he
    exact ih (applyWord_inv h first) others

theorem openCycle_inv (inp : Inputs) {s : State} (h : Inv s) : Inv (openCycle inp s) := { h with }

theorem dropInputs_inv {s : State} (h : Inv s) : Inv (dropInputs s) := { h with }

/-- Of the timing registers the invariant speaks of `MsCounter` only, which counts modulo `MS_DIV` (R225). -/
theorem closeCycle_inv (inp : Inputs) {s : State} (h : Inv s) : Inv (closeCycle inp s) := by
  have counted : (msNext s.par s.timing).toNat < s.par.msDiv := by
    rw [msNext_of_legal h.params h.msCounter]
    exact Nat.mod_lt _ (msDiv_pos h.params)
  exact { h with msCounter := counted }

/-- Settles O20: a cycle with reset establishes the invariant, and one without is events between its two edges. -/
theorem everyStepKeepsInv : Obligations.EveryStepKeepsInv := by
  intro s t h hs
  cases hrst : (nextInputs s).rst with
  | true => exact resetCycle_inv h.params hrst hs
  | false =>
    rw [step, cycle_run hrst] at hs
    obtain ⟨u, events, closed⟩ := andThen_eq_next.mp hs
    obtain rfl := Host.Outcome.next.inj closed
    exact closeCycle_inv _ (applyWords_inv (openCycle_inv _ (dropInputs_inv h)) events)

/-! ### Events and cycles go on (R48, R250) -/

/-- Settles O8: an event answers a next state, and so does a cycle, with reset or without. -/
theorem everyEventAndCycleGoesOn : Obligations.EveryEventAndCycleGoesOn := by
  refine ⟨fun i s => (exec_timingKept i s).imp fun _ answered => answered.1, fun s => ?_⟩
  cases hrst : (nextInputs s).rst with
  | true => exact ⟨_, cycle_reset hrst (dropInputs s)⟩
  | false => exact (step_clocked hrst).imp fun _ answered => answered.1

/-- Settles O9: the next state of an event is the one that keeps the timing layer. -/
theorem eventsKeepTimingRegisters : Obligations.EventsKeepTimingRegisters := by
  intro i s t he
  obtain ⟨u, answered, kept⟩ := exec_timingKept i s
  obtain rfl := Host.Outcome.next.inj (answered.symm.trans he)
  exact ⟨kept.timing, kept.par, kept.inputs⟩

/-! ### A cycle of one event (R230) -/

/-- A cycle whose one word decodes to an event runs that event between its two edges. -/
theorem step_of_single_event {s : State} {src : Source} {w : Word} {i : Instr}
    (running : (nextInputs s).rst = false) (events : cycleEvents (nextInputs s) (dropInputs s) = [(src, w)])
    (decoded : decode src w = .ok i) :
    step s =
      andThen (exec i (openCycle (nextInputs s) (dropInputs s))) (fun t => .next (closeCycle (nextInputs s) t)) := by
  rw [step, cycle_run running, events, applyWords_singleton, applyWord_ok decoded]

/-- The timing layer generates no event in the next cycle (R225, R228). -/
structure NothingDue (s : State) : Prop where
  sample : sampleTickDue s = false
  ms : msTickDue s = false
  rise : syncRiseDue s = false
  fall : syncFallDue s = false

/-- With no tick or edge due, the command is the one event of the cycle. -/
theorem cycleEvents_of_nothingDue {inp : Inputs} {s : State} (quiet : NothingDue s) (valid : inp.cmdValid = true) :
    cycleEvents inp s = [(.ext, inp.cmdWord)] := by
  simp [cycleEvents, quiet.sample, quiet.ms, quiet.rise, quiet.fall, valid]

/-- The signals are those of the registers; without an edge the last two flops agree, or are not armed (R228). -/
theorem nothingDue_of_registers {s : State} (sample : s.timing.pwmCounter ≠ 255)
    (ms : msCount s.par s.timing ≠ s.par.msDiv - 1) (noEdge : s.timing.syncArm ≠ 3 ∨ s.timing.sync2 = s.timing.sync3) :
    NothingDue s where
  sample := by rw [sampleTickDue_eq, decide_eq_false sample]
  ms := by rw [msTickDue_eq, decide_eq_false ms]
  rise := by
    rw [syncRiseDue_eq, decide_eq_false_iff_not]
    rintro ⟨armed, high, low⟩
    simp [armed, high, low] at noEdge
  fall := by
    rw [syncFallDue_eq, decide_eq_false_iff_not]
    rintro ⟨armed, low, high⟩
    simp [armed, high, low] at noEdge

/-- Settles O5: the command is the one event of the cycle. -/
theorem stepRunsTheDecodedCommand : Obligations.StepRunsTheDecodedCommand := by
  intro s inp rest i listed running valid decoded sample ms noEdge
  have pins : nextInputs s = inp := by rw [nextInputs, listed, List.headD_cons]
  have later : dropInputs s = { s with inputs := rest } := by rw [dropInputs, listed, List.tail_cons]
  have quiet : NothingDue (dropInputs s) := nothingDue_of_registers sample ms noEdge
  rw [← later]
  subst pins
  exact step_of_single_event running (cycleEvents_of_nothingDue quiet valid) decoded

/-! ### A placed word (log 2) -/

theorem tableWord_toNat (w : Word) : tableWord 32 w.toNat = some w := by
  simp [tableWord, Nat.mod_eq_of_lt w.isLt, w.isLt]

section Placed
variable {i : Instr} (wf : i.wellFormed = true)
include wf

/-- The word of a command is placed on the command port. -/
theorem withFetchWord_of_ext (source : i.source = .ext) (s : State) :
    s.withFetchWord 32 (encode i).toNat = withCommand s (encode i) := by
  have decoded : decode .int (encode i) = .ok i := decode_encode wf nofun
  simp only [State.withFetchWord, tableWord_toNat, placeWord, decoded, source]

/-- The word of one of the block's own events is placed by the timing registers that generate it. -/
theorem withFetchWord_of_int (source : i.source = .int) (s : State) :
    s.withFetchWord 32 (encode i).toNat = { withoutCommand s with timing := timingFor s.par i s.timing } := by
  have decoded : decode .int (encode i) = .ok i := decode_encode wf nofun
  simp only [State.withFetchWord, tableWord_toNat, placeWord, decoded, source]

end Placed

theorem nothingDue_reset : NothingDue State.reset := by constructor <;> decide

/-- From reset the cycle after a placed word holds that word and no other, from the event's own source. -/
theorem cycleEvents_withFetchWord_reset {i : Instr} (wf : i.wellFormed = true) :
    let p := State.reset.withFetchWord 32 (encode i).toNat
    (nextInputs p).rst = false ∧ cycleEvents (nextInputs p) (dropInputs p) = [(i.source, encode i)] := by
  intro p
  cases source : i.source with
  | ext =>
    have placed : p = withCommand State.reset (encode i) := withFetchWord_of_ext wf source State.reset
    rw [placed]
    exact ⟨rfl, cycleEvents_of_nothingDue nothingDue_reset rfl⟩
  | int =>
    have placed : p = { withoutCommand State.reset with timing := timingFor State.reset.par i State.reset.timing } :=
      withFetchWord_of_int wf source State.reset
    rw [placed]
    refine ⟨rfl, ?_⟩
    cases i with
    | sampleTick => decide
    | msTick => decide
    | syncRise => decide
    | syncFall => decide
    | _ => cases source

/-- Settles O7: the placed word is the one event of the cycle, and decodes to the event it encodes. -/
theorem placedWordIsTheFirstEventRun : Obligations.PlacedWordIsTheFirstEventRun := by
  intro i wf p
  obtain ⟨running, events⟩ := cycleEvents_withFetchWord_reset wf
  exact step_of_single_event running events (decode_encode wf id)

/-! ### The output ports (R62, R222, R231, R232) -/

@[simp] theorem stopTempoCount_out (s : State) : (stopTempoCount s).out = s.out := by
  rw [stopTempoCount_eq_setBaseTempo, setBaseTempo_out]
  rfl

/-- No event but a millisecond tick writes an output port. -/
theorem exec_out {i : Instr} {s t : State} (he : exec i s = .next t) (noTick : i ≠ .msTick) : t.out = s.out := by
  cases i with
  | msTick => exact absurd rfl noTick
  | setDepth dir => obtain ⟨_, rfl⟩ | ⟨_, rfl⟩ := execSetDepth_cases he <;> rfl
  | adjustSpeed delta => obtain rfl | ⟨_, _, rfl⟩ := execAdjustSpeed_cases he <;> rfl
  | tap => obtain ⟨_, rfl⟩ | ⟨_, rfl⟩ := execTap_cases he <;> simp
  | _ => cases he; simp

/-- The events so far go on, with `out` on the output ports. -/
def Drives (out : Outputs) (o : Host.Outcome State Fault Refusal) : Prop := ∃ t, o = .next t ∧ t.out = out

section Drives
variable {out : Outputs} {o : Host.Outcome State Fault Refusal}

theorem Drives.andThen_exec (h : Drives out o) {i : Instr} (noTick : i ≠ .msTick) : Drives out (andThen o (exec i)) := by
  obtain ⟨t, rfl, ports⟩ := h
  obtain ⟨u, answered, -⟩ := exec_timingKept i t
  exact ⟨u, answered, (exec_out answered noTick).trans ports⟩

theorem Drives.runIf (h : Drives out o) {i : Instr} (noTick : i ≠ .msTick) (signal : Bool) :
    Drives out (runIf signal i o) := by
  cases signal with
  | false => exact h
  | true => exact h.andThen_exec noTick

/-- The command of a cycle writes no output port: a millisecond tick is illegal on the command port (R86). -/
theorem Drives.runCommand (h : Drives out o) (inp : Inputs) : Drives out (runCommand inp o) := by
  unfold Machine.runCommand
  split
  · split
    · next i decoded =>
      obtain ⟨-, -, own⟩ := encodeOfDecodedEventIsTheWord .ext inp.cmdWord i decoded
      refine h.andThen_exec ?_
      rintro rfl
      exact absurd (own rfl) nofun
    · obtain ⟨t, rfl, ports⟩ := h
      exact ⟨_, rfl, ports⟩
  · exact h

end Drives

/-- The two ticks of a cycle leave the ports with the pulses of the millisecond tick (R200, R202): the sample tick
before it reaches neither the ports nor the hold timer. -/
theorem drives_ticks (sample ms : Bool) (s : State) :
    Drives { s.out with
        debounceReq := s.out.debounceReq || ms
        modeResetReq := s.out.modeResetReq || (ms && holdExpires s) }
      (runIf ms .msTick (runIf sample .sampleTick (.next s))) := by
  obtain ⟨a, sampled, ports, expiry⟩ :
      ∃ a, runIf sample .sampleTick (.next s) = .next a ∧ a.out = s.out ∧ holdExpires a = holdExpires s := by
    cases sample with
    | false => exact ⟨s, rfl, rfl, rfl⟩
    | true => exact ⟨_, exec_sampleTick s, rfl, rfl⟩
  rw [sampled]
  cases ms with
  | false => exact ⟨a, rfl, by simp [ports]⟩
  | true => exact ⟨_, exec_msTick a, by simp [msTicked_eq, ports, expiry]⟩

/-- All events of a cycle leave the ports as its ticks do: the edges and the command write none. -/
theorem drives_cycleEvents (inp : Inputs) (s start : State) :
    Drives { start.out with
        debounceReq := start.out.debounceReq || msTickDue s
        modeResetReq := start.out.modeResetReq || (msTickDue s && holdExpires start) }
      (applyWords (cycleEvents inp s) start) := by
  have ticks := drives_ticks (sampleTickDue s) (msTickDue s) start
  have rise := ticks.runIf (i := .syncRise) nofun (syncRiseDue s)
  have fall := rise.runIf (i := .syncFall) nofun (syncFallDue s)
  rw [applyWords_cycleEvents]
  exact fall.runCommand inp

/-- Settles O10: the ports of the opening edge, which hold no pulse yet, with the pulses of the ticks. -/
theorem outputPortsOfACycle : Obligations.OutputPortsOfACycle := by
  intro s inp rest listed running
  obtain ⟨t, events, ports⟩ :=
    drives_cycleEvents inp { s with inputs := rest } (openCycle inp { s with inputs := rest })
  refine ⟨closeCycle inp t, by rw [step_of_inputs listed, cycle_run running, events, andThen_next], ?_⟩
  rw [closeCycle_out, ports, msTickDue_eq]
  simp only [openCycle, Bool.false_or, holdExpires, Bool.decide_and, Bool.decide_eq_true]
  rfl

end Sys2Proof.Machine
end

section
/-! PROOFS. Two taps (spec/43_tap_sync.md R181, R182): the second one commits the milliseconds counted since the first. -/

namespace Sys2Proof.Machine

/-- In time, the second tap finds the count open and at the number of ticks. -/
theorem runTrace_two_taps {s : State} (ok : s.par.Ok) (idle : s.flags.isCountingTempo = false) {n : Nat}
    (inTime : n ≤ s.par.lfoMinTempo) :
    runTrace (.event .tap :: (List.replicate n (.event .msTick) ++ [.event .tap])) s =
      .next (stopTempoCount (msTicked^[n] (startTempoCount s))) := by
  have counting := (countedSince_iterate ok n).counting.trans (decide_eq_true inTime)
  rw [runTrace_cons, runItem, exec_tap_idle s idle, andThen_next, runTrace_append, runTrace_msTick, andThen_next,
    runTrace_cons, runItem, exec_tap_counting _ counting, andThen_next, runTrace_nil]

/-- The base tempo of a stop at a count strictly in range. -/
theorem stoppedState_baseTempo_toNat {s : State} (ok : s.par.Ok)
    (range : tempoInRange s.par s.counters.tempoMsCount.toNat) :
    (stoppedState s).tempo.baseTempo.toNat =
      if tempoRedundant s.tempo.baseTempo s.counters.tempoMsCount.toNat then s.tempo.baseTempo.toNat
      else s.counters.tempoMsCount.toNat := by
  by_cases near : tempoRedundant s.tempo.baseTempo s.counters.tempoMsCount.toNat
  · have stays : ¬ Commits s.par s.tempo.baseTempo s.counters.tempoMsCount.toNat := fun commits =>
      (commits_iff.mp commits).2 near
    simp only [stoppedState, if_neg stays, if_pos near]
  · have commits := commits_iff.mpr ⟨range, near⟩
    simp only [stoppedState, if_pos commits, if_neg near]
    exact committedTempo_baseTempo_toNat (s := s) ok range

/-- Settles O54: the count at the second tap is `n`, and the stop commits it or finds it within 2 ms of the tempo. -/
theorem twoTapsCommitTheMeasuredInterval : Obligations.TwoTapsCommitTheMeasuredInterval := by
  intro s n h idle fast slow
  have counted := countedSince_iterate h.params n
  generalize ticked : msTicked^[n] (startTempoCount s) = t at counted
  have ok : t.par.Ok := counted.par ▸ h.params
  have count : t.counters.tempoMsCount.toNat = n := counted.count.trans (min_eq_left (by omega))
  have range : tempoInRange t.par t.counters.tempoMsCount.toNat := by
    rw [count, counted.par]
    exact ⟨fast, slow⟩
  refine ⟨stoppedState t, ?_, rfl, rfl, count, rfl, rfl, ?_⟩
  · rw [runTrace_two_taps h.params idle slow.le, ticked, stopTempoCount_eq ok]
  · rw [stoppedState_baseTempo_toNat ok range, count, counted.tempo]

end Sys2Proof.Machine
end
